-- ==== Sys2Proof/Word.lean ====
section
/-! DEFINITION. The words of the hardware and their widths (00_scope.md R10). -/

namespace Sys2Proof

/-- A Byte: an unsigned 8-bit value (R10). -/
abbrev Byte := BitVec 8

/-- A wire Address: an unsigned 16-bit value (R10). -/
abbrev Addr := BitVec 16

/-- A bus address: the 15 address lines, bits 0 to 14 (R10). -/
abbrev BusAddr := BitVec 15

end Sys2Proof
end

