-- ==== Sys2Proof/Syntax/Roles.lean ====
section
/-! DEFINITION. The protocol states and the places a byte can have in a frame: one place for each row of
the format tables of 30_encoding.md R77 to R80. -/

namespace Sys2Proof

/-- S.st, the protocol state (10_state.md R23). -/
inductive ProtoState where
  | waitInstruction
  | waitAddrHigh
  | waitAddrLow
  | waitData
  | readData
  deriving DecidableEq, Repr

/-- The four commands that take operand bytes (42_protocol.md R127). -/
inductive Command where
  | writeByte
  | writeStream
  | readByte
  | readStream
  deriving DecidableEq, Repr

/-- The places of format WB (R77). -/
inductive WriteByteRole where
  | opcode
  | addrHi (b : Byte)
  | addrLo (b : Byte)
  | data (b : Byte)
  deriving DecidableEq, Repr

/-- The places of format WS (R78): a data byte is a byte other than 0xFF, or the escape pair
mark, escaped; the end is mark, terminator. -/
inductive WriteStreamRole where
  | opcode
  | addrHi (b : Byte)
  | addrLo (b : Byte)
  | data (b : Byte)
  | mark
  | escaped
  | terminator (t : Byte)
  deriving DecidableEq, Repr

/-- The places of format RB (R79): no fourth byte. -/
inductive ReadByteRole where
  | opcode
  | addrHi (b : Byte)
  | addrLo (b : Byte)
  deriving DecidableEq, Repr

/-- The places of format RS (R80). -/
inductive ReadStreamRole where
  | opcode
  | startHi (b : Byte)
  | startLo (b : Byte)
  | endHi (b : Byte)
  | endLo (b : Byte)
  deriving DecidableEq, Repr

/-- What a byte's meaning is set by: S.st, S.instr, S.rsPending and S.cancelSeen (R75). -/
structure Context where
  st : ProtoState
  instr : Byte
  rsPending : Bool
  cancelSeen : Bool
  deriving DecidableEq, Repr

/-- The names of a byte that belongs to no command's frame: the state it was taken in has no branch for
S.instr (42_protocol.md R135; at WAIT_ADDR_HIGH the transition needs none, R128), or S.st was left at
READ_DATA between steps (R24 says it never is; log 4). -/
inductive Reject where
  | orphanAddrHigh
  | orphanAddrLow
  | orphanData
  | heldReadData
  deriving DecidableEq, Repr

/-- Why a byte list holds no whole frame: it ends too early. No byte value is illegal (R89). -/
inductive FrameReject where
  | incomplete
  deriving DecidableEq, Repr

end Sys2Proof
end

