-- ==== Sys2Proof/Machine/Operands.lean ====
section
/-! DEFINITION. The operand forms: address assembly (30_encoding.md R84), the bus address of a wire
address (20_memory.md R51), and the spec's own encodings of the enumerations. -/

namespace Sys2Proof

/-- The address after its high byte: zext_16(b) << 8, the low byte 0 (42_protocol.md R128). -/
def addrFromHigh (b : Byte) : Addr := b.setWidth 16 <<< 8

/-- The address after its low byte: addr[15:8] ++ b (42_protocol.md R129). -/
def addrWithLow (a : Addr) (b : Byte) : Addr := a.extractLsb' 8 8 ++ b

/-- An address operand: (zext_16(hi) << 8) | zext_16(lo) (R84). -/
def assembleAddr (hi lo : Byte) : Addr := (hi.setWidth 16 <<< 8) ||| lo.setWidth 16

/-- The bytes of an address on the wire, addr[15:8] first (R52). -/
def addrHighByte (a : Addr) : Byte := a.extractLsb' 8 8

/-- addr[7:0] (R52). -/
def addrLowByte (a : Addr) : Byte := a.extractLsb' 0 8

/-- bus(a) = a[14:0] (R51): bit 15 has no line. -/
def busAddr (a : Addr) : BusAddr := a.setWidth 15

/-- The encoding of S.st in 3 bits (10_state.md R23); not observable on any port. -/
def protoStateCode : ProtoState → BitVec 3
  | .waitInstruction => 0#3
  | .waitAddrHigh => 1#3
  | .waitAddrLow => 2#3
  | .waitData => 3#3
  | .readData => 4#3

end Sys2Proof
end

