-- ==== Sys2Proof/Config.lean ====
section
/-! DEFINITION. The parameters of an implementation (00_scope.md R13 to R15) and the free values
(20_memory.md R58). -/

namespace Sys2Proof

/-- LINE_MAP (R15): from logical bit position to physical line identifier, injective over the
15 address lines and the 8 data lines together. Its values are outside the scope of the spec. The
field defaults only show that such a map exists. -/
structure LineMap where
  addr : Vector Nat 15 := Vector.ofFn (fun i => i.val)
  data : Vector Nat 8 := Vector.ofFn (fun i => 15 + i.val)
  injective : (addr.toList ++ data.toList).Nodup := by decide
  deriving DecidableEq, Repr, Inhabited

/-- The open parameters of one machine: PAGE_CAP, a positive natural (R13); SENTINEL_ALIAS (R14);
LINE_MAP (R15). Held in State as plain data that no step writes, so a statement about every state is
a statement for every value of them (log 5). The field defaults only show that the type has a value. -/
structure Config where
  pageCap : Nat := 1
  pageCap_pos : 0 < pageCap := by decide
  sentinelAlias : Bool := true
  lineMap : LineMap := {}
  deriving DecidableEq, Repr, Inhabited

/-- The parameters of the machine at hand: OPEN in the spec (D2, D3), so a constant without a body
(log 5). -/
opaque Config.implementation : Config

/-- The free draws of R58: the value of the n-th sample that no rule determines ("any 8-bit value").
No body, so no proof can see a value (log 9). -/
opaque Config.freeSample : Nat → Byte

end Sys2Proof
end

