-- ==== Sys2Proof/Machine/Constants.lean ====
section
/-! DEFINITION. The protocol constants (00_scope.md R11). -/

namespace Sys2Proof

/-- WRITE_BYTE (R11). -/
def opWriteByte : Byte := 0x01#8
/-- WRITE_STREAM (R11). -/
def opWriteStream : Byte := 0x02#8
/-- READ_BYTE (R11). -/
def opReadByte : Byte := 0x03#8
/-- READ_STREAM (R11). -/
def opReadStream : Byte := 0x04#8
/-- HANDSHAKE (R11). -/
def opHandshake : Byte := 0xAA#8
/-- CANCEL (R11): a command at WAIT_INSTRUCTION, the mark of a WRITE_STREAM data phase (R136). -/
def opCancel : Byte := 0xFF#8
/-- ACK (R11). -/
def ackByte : Byte := 0x06#8
/-- NAK (R11). -/
def nakByte : Byte := 0x15#8
/-- The start address that stands for "no start pending" (10_state.md R29). -/
def rsSentinel : Addr := 0xFFFF#16

/-- The bytes that R127 names at WAIT_INSTRUCTION; every other byte is UNKNOWN (R83). -/
def isCommandByte (b : Byte) : Bool :=
  b == opWriteByte || b == opWriteStream || b == opReadByte || b == opReadStream ||
  b == opHandshake || b == opCancel

end Sys2Proof
end

