-- ==== Sys2Proof/Machine/State.lean ====
section
/-! DEFINITION. The state of the core and of its environment as plain data, and the state after reset
(10_state.md, 20_memory.md section 4). -/

namespace Sys2Proof.Machine

/-- S.phase (10_state.md R22). -/
inductive Phase where
  | gated
  | run
  deriving DecidableEq, Repr

/-- Bus.DIR, the direction of the data lines (R36): IN of the spec is `input`, OUT is `output`. -/
inductive Dir where
  | output
  | input
  deriving DecidableEq, Repr

/-- The timing constants a delay event names (00_scope.md R12). -/
inductive DelayKind where
  | wp
  | dh
  | acc
  | wc
  | blink
  deriving DecidableEq, Repr

/-- The events a step records (00_scope.md R17): the bus primitives' (40_bus_driver.md R95), the delays'
(41_eeprom_ops.md R110), the gate indicator's (60_exceptions.md R185) and the responses. -/
inductive Event where
  | setA (a : BusAddr)
  | setDir (d : Dir)
  | setD (v : Byte)
  | we (x : Bool)
  | oe (x : Bool)
  | sample (v : Byte)
  | delay (k : DelayKind)
  | ind (x : Bool)
  | tx (b : Byte)
  deriving DecidableEq, Repr

/-- The model-level faults of 40_bus_driver.md R107. Raised by the bus primitives on misuse of the bus
(R98, R100 to R102, R105, R106), RECORDED in State.faults and never cleared; the machine goes on, so no
step ever ends in one (log 12). Safe: a claim must exclude a recorded fault by premise. -/
inductive Fault where
  /-- Raised by setDataOut or setWriteEnable(true) with DIR = IN, by readDataIn with DIR = OUT. Safe. -/
  | busMisuse
  /-- Raised by a primitive that leaves DIR = OUT and OE = 1 (R105). Safe. -/
  | busContention
  /-- Raised by a primitive that leaves WE = 1 and OE = 1 (R106). Safe. -/
  | busWeOe
  deriving DecidableEq, Repr

/-- Why a step gives no meaning. Every instruction of this hardware has a meaning, so nothing raises it. -/
inductive Refusal where
  /-- Raised by an arm of exec whose instruction has no meaning yet: there is none. Safe. -/
  | notModelled (mnemonic : String)
  deriving DecidableEq, Repr

/-- The fault record, a set (R107: "no order among them is defined"). -/
structure FaultSet where
  busMisuse : Bool
  busContention : Bool
  busWeOe : Bool
  deriving DecidableEq, Repr

/-- No fault recorded (70_reset_and_hazards.md R210). -/
def FaultSet.none : FaultSet := { busMisuse := false, busContention := false, busWeOe := false }

/-- The Session State S (10_state.md R21). S.len is the length of `buf`: a cell at an index S.len or
above holds no value a rule reads (R27, log 6). -/
structure Session where
  st : ProtoState
  instr : Byte
  addr : Addr
  buf : List Byte
  rsStart : Addr
  rsPending : Bool
  cancelSeen : Bool
  ovf : Bool
  deriving DecidableEq, Repr

/-- The bus driver's state (R34 to R38): WE and OE are the logical values, true = asserted (R99). -/
structure Bus where
  a : BusAddr
  dlatch : Byte
  dir : Dir
  we : Bool
  oe : Bool
  deriving DecidableEq, Repr

/-- The environment a run names (70_reset_and_hazards.md R210): the reference environment of
20_memory.md R58, or a free one, whose every sample is a free draw. -/
inductive Environment where
  | reference
  | free
  deriving DecidableEq, Repr

/-- The cells M of the reference environment, in canonical form (see Memory.wf): addresses strictly
rising, no cell listed that holds what an unlisted cell reads as. -/
abbrev Memory := List Host.Cell

/-- The external chip as the reference environment models it (R58 to R60): its cells, and whether its
internal write cycle is in progress (R43). State of the environment, not of the core (R20, log 1). -/
structure Chip where
  env : Environment
  cells : Memory
  busy : Bool
  deriving DecidableEq, Repr

/-- The machine: parameters, core, channels, environment, and the records a run is observed by. -/
structure State where
  /-- PAGE_CAP, SENTINEL_ALIAS, LINE_MAP: no step writes them (log 5). -/
  cfg : Config
  phase : Phase
  session : Session
  bus : Bus
  /-- IND, the gate indicator (R42). -/
  ind : Bool
  /-- Rx: the bytes delivered and not yet taken, oldest first (R41). -/
  rx : List Byte
  /-- Tx: the response bytes, oldest first (R41). -/
  tx : List Byte
  /-- The levels of CONN that the gate's next polls observe, oldest first; none left is 0 (log 13). -/
  conn : List Bool
  chip : Chip
  /-- The MODEL's own counter: how many free draws have been made (log 9). -/
  draws : Nat
  faults : FaultSet
  /-- The event list, oldest first (00_scope.md R17). -/
  events : List Event
  deriving DecidableEq, Repr

/-- S at reset (10_state.md R49): rsStart holds the sentinel, the buffer is empty. -/
def Session.reset : Session where
  st := .waitInstruction
  instr := 0x00#8
  addr := 0x0000#16
  buf := []
  rsStart := rsSentinel
  rsPending := false
  cancelSeen := false
  ovf := false

/-- Bus at reset (R49), the idle posture. -/
def Bus.reset : Bus where
  a := 0x0000#15
  dlatch := 0x00#8
  dir := .output
  we := false
  oe := false

/-- The machine right after reset (R49). The values R49 does not give (nothing delivered, no connection,
the reference environment with nothing listed, no draw made) are named in log 15. -/
def State.reset : State where
  cfg := Config.implementation
  phase := .gated
  session := Session.reset
  bus := Bus.reset
  ind := false
  rx := []
  tx := []
  conn := []
  chip := { env := .reference, cells := [], busy := false }
  draws := 0
  faults := FaultSet.none
  events := []

end Sys2Proof.Machine
end

