-- ==== Sys2Proof/Machine/Ops.lean ====
section
/-! DEFINITION. The named operations over the cells, the event list, the response channel, the fault record
and the session registers that every instruction shares. -/

namespace Sys2Proof.Machine

/-- What a cell that nothing has written reads as: an erased cell. DESIGN CHOICE, unsafe (log 7). -/
def erasedByte : Byte := 0xFF#8

/-- How many cells the chip has: 2^15 bus addresses (20_memory.md R50, R62). -/
def cellCount : Nat := 32768

/-- The canonical form of the cells. -/
abbrev Memory.wf (m : Memory) : Prop :=
  List.Pairwise (fun c d => c.1 < d.1) m ∧ ∀ c ∈ m, c.1 < cellCount ∧ c.2 ≠ erasedByte

/-- MemRead(a) = M[a] (R58). -/
def Memory.read : Memory → Nat → Byte
  | [], _ => erasedByte
  | (k, w) :: m, a => if k = a then w else Memory.read m a

/-- MemWrite(a, v): M[a] <- v (R59), keeping the canonical form. -/
def Memory.write : Memory → Nat → Byte → Memory
  | [], a, v => if v = erasedByte then [] else [(a, v)]
  | (k, w) :: m, a, v =>
    if a < k then (if v = erasedByte then (k, w) :: m else (a, v) :: (k, w) :: m)
    else if a = k then (if v = erasedByte then m else (a, v) :: m)
    else (k, w) :: Memory.write m a v

/-- M[a] of a state. -/
def State.cell (s : State) (a : BusAddr) : Byte := Memory.read s.chip.cells a.toNat

/-- S.len, the number of valid bytes in S.buf (10_state.md R28, log 6). -/
abbrev Session.len (S : Session) : Nat := S.buf.length

/-- Record one event (00_scope.md R17). -/
def record (e : Event) (s : State) : State := { s with events := s.events ++ [e] }

/-- The observation of a step from s to t: the events it records (00_scope.md R17). -/
def stepEvents (s t : State) : List Event := t.events.drop s.events.length

/-- Tx(b): append b to the response channel (R16, R41). -/
def respond (b : Byte) (s : State) : State :=
  { s with tx := s.tx ++ [b], events := s.events ++ [.tx b] }

/-- Record a fault in the set (40_bus_driver.md R107). -/
def FaultSet.add (f : Fault) (fs : FaultSet) : FaultSet :=
  match f with
  | .busMisuse => { fs with busMisuse := true }
  | .busContention => { fs with busContention := true }
  | .busWeOe => { fs with busWeOe := true }

/-- `fault F` when its condition holds: recorded, never cleared, and the primitive goes on (log 12). -/
def faultIf (c : Bool) (f : Fault) (s : State) : State :=
  if c then { s with faults := s.faults.add f } else s

/-- S.st <- st. -/
def enter (st : ProtoState) (s : State) : State := { s with session.st := st }

/-- What decides a byte's meaning in a state (30_encoding.md R75). -/
def State.context (s : State) : Context where
  st := s.session.st
  instr := s.session.instr
  rsPending := s.session.rsPending
  cancelSeen := s.session.cancelSeen

/-- A command byte with operands at WAIT_INSTRUCTION (42_protocol.md R127). -/
def beginFrame (op : Byte) (s : State) : State :=
  { s with session.instr := op, session.st := .waitAddrHigh }

/-- WAIT_ADDR_HIGH (R128): unconditional, emits nothing. -/
def takeAddrHigh (b : Byte) (s : State) : State :=
  { s with session.addr := addrFromHigh b, session.st := .waitAddrLow }

/-- WAIT_ADDR_LOW, the address assembly (R129). -/
def takeAddrLow (b : Byte) (s : State) : State :=
  { s with session.addr := addrWithLow s.session.addr b }

/-- Taking an exception: the core has no trap (60_exceptions.md R170). The nearest thing (R180) is the
defensive recovery of 42_protocol.md R135, the one shared operation for a byte that reached a state with
no branch for it: S.st alone changes, nothing is saved, nothing is emitted. Nothing returns from it (R181). -/
def recover (s : State) : State := enter .waitInstruction s

end Sys2Proof.Machine
end

