-- ==== Sys2Proof/Machine/Bus.lean ====
section
/-! DEFINITION. The Bus Driver's six primitives (40_bus_driver.md) and the chip they reach (20_memory.md
R58 to R60). -/

namespace Sys2Proof.Machine

/-- The posture check that follows every primitive (R105, R106). -/
def checkPosture (s : State) : State :=
  faultIf (s.bus.we && s.bus.oe) .busWeOe
    (faultIf (s.bus.dir == .output && s.bus.oe) .busContention s)

/-- setAddress (R96): addr[15] is dropped. -/
def setAddress (addr : Addr) (s : State) : State :=
  checkPosture (record (.setA (busAddr addr)) { s with bus.a := busAddr addr })

/-- setDataDirection (R97): Bus.DLATCH is not changed. -/
def setDataDirection (d : Dir) (s : State) : State :=
  checkPosture (record (.setDir d) { s with bus.dir := d })

/-- setDataOut (R98): BUS_MISUSE with DIR = IN; the latch is written either way (log 12). -/
def setDataOut (v : Byte) (s : State) : State :=
  checkPosture (record (.setD v)
    { faultIf (s.bus.dir != .output) .busMisuse s with bus.dlatch := v })

/-- The posture in which a write pulse's end writes the addressed cell (R59); WE is the pulse itself. -/
def Bus.writePosture (b : Bus) : Bool := b.dir == .output && !b.oe

/-- The end of a write pulse in the reference environment. In the posture of R59 it performs
MemWrite(Bus.A, Bus.DLATCH), in another one the cells stay (log 11); in every posture the chip's internal write
cycle begins (R60: "between a write pulse and ..."). A free environment's chip is not modelled (log 8). -/
def chipLatch (s : State) : State :=
  if s.chip.env = .reference then
    { s with
      chip.cells :=
        if s.bus.writePosture then Memory.write s.chip.cells s.bus.a.toNat s.bus.dlatch
        else s.chip.cells
      chip.busy := true }
  else s

/-- setWriteEnable (R100): BUS_MISUSE for a pulse with undriven data lines; a transition of WE from 1 to 0
is the pulse's end. -/
def setWriteEnable (x : Bool) (s : State) : State :=
  let s1 := faultIf (x && s.bus.dir == .input) .busMisuse s
  let s2 := if s.bus.we && !x then chipLatch s1 else s1
  checkPosture (record (.we x) { s2 with bus.we := x })

/-- setOutputEnable (R101). -/
def setOutputEnable (x : Bool) (s : State) : State :=
  checkPosture (record (.oe x) { s with bus.oe := x })

/-- The posture in which the chip drives the data lines for a read (R58). -/
def Bus.readPosture (b : Bus) : Bool := b.dir == .input && b.oe && !b.we

/-- The value on D7..D0 (R58, R60, R102): M[Bus.A] in the reference environment, in a read posture and out
of the internal write cycle; a free draw otherwise (log 9). -/
def sampleLines (s : State) : Byte × State :=
  if s.chip.env = .reference ∧ s.bus.readPosture = true ∧ s.chip.busy = false then
    (s.cell s.bus.a, s)
  else (Config.freeSample s.draws, { s with draws := s.draws + 1 })

/-- readDataIn (R102): BUS_MISUSE with DIR = OUT. -/
def readDataIn (s : State) : Byte × State :=
  let r := sampleLines (faultIf (s.bus.dir != .input) .busMisuse s)
  (r.1, checkPosture (record (.sample r.1) r.2))

end Sys2Proof.Machine
end

