-- ==== Sys2Proof/Machine/Eeprom.lean ====
section
/-! DEFINITION. The EEPROM Operations sequencer (41_eeprom_ops.md). -/

namespace Sys2Proof.Machine

/-- Delay(K) (R110): recorded, no state of the core changes. The write-cycle delay ends the chip's internal
write cycle (20_memory.md R60). -/
def delay (k : DelayKind) (s : State) : State :=
  record (.delay k) (if k = .wc then { s with chip.busy := false } else s)

/-- awaitWriteCycle (R111). -/
def awaitWriteCycle (s : State) : State := delay .wc s

/-- awaitOutputSettle (R112). -/
def awaitOutputSettle (s : State) : State := delay .acc s

/-- programByte (R113): never asserts output-enable (R115), never waits out the write cycle (R114). -/
def programByte (data : Byte) (addr : Addr) (s : State) : State :=
  s |> setAddress addr
    |> setDataDirection .output
    |> setDataOut data
    |> setWriteEnable true
    |> delay .wp
    |> setWriteEnable false
    |> delay .dh

/-- The end of a read sequence (R116, R118): OE off, then the lines back to output. -/
def endRead (s : State) : State := s |> setOutputEnable false |> setDataDirection .output

/-- readByte (R116). -/
def readByte (addr : Addr) (s : State) : Byte × State :=
  let r := s |> setDataDirection .input
             |> setAddress addr
             |> setOutputEnable true
             |> awaitOutputSettle
             |> readDataIn
  (r.1, endRead r.2)

/-- One pass of readRange's loop (R118): the address unless it is the first, the settle delay, the sample,
its byte to the response channel. -/
def readOne (start : Addr) (a : Nat) (s : State) : State :=
  let r := readDataIn (awaitOutputSettle
    (if a = start.toNat then s else setAddress (BitVec.ofNat 16 a) s))
  respond r.1 r.2

/-- readRange's loop over the integers a, a + 1, ..., n of them (R118). -/
def readLoop (start : Addr) : Nat → Nat → State → State
  | 0, _, s => s
  | n + 1, a, s => readLoop start n (a + 1) (readOne start a s)

/-- readRange (R118): nothing at all for start > end (R119). -/
def readRange (start stop : Addr) (s : State) : State :=
  if stop < start then s
  else s |> setDataDirection .input
         |> setAddress start
         |> setOutputEnable true
         |> readLoop start (stop.toNat - start.toNat + 1) start.toNat
         |> endRead

end Sys2Proof.Machine
end

