-- ==== Sys2Proof/Machine/Flags.lean ====
section
/-! DEFINITION. The status bits S.rsPending, S.cancelSeen and S.ovf (10_state.md R33): there are no condition
codes. -/

namespace Sys2Proof.Machine

/-- pendingAfterStore(a) (42_protocol.md R152): under SENTINEL_ALIAS a start of 0xFFFF is not told from
"no start pending". -/
def pendingAfterStore (sentinelAlias : Bool) (a : Addr) : Bool :=
  if sentinelAlias then a != rsSentinel else true

/-- A range start is stored (R130): S.rsStart <- S.addr, S.rsPending as R152 says. -/
def storeRangeStart (s : State) : State :=
  { s with
    session.rsStart := s.session.addr
    session.rsPending := pendingAfterStore s.cfg.sentinelAlias s.session.addr }

/-- The pending start is cleared (R130). -/
def clearRangeStart (s : State) : State :=
  { s with session.rsStart := rsSentinel, session.rsPending := false }

/-- S.cancelSeen <- x (R143, R144, R147). -/
def setCancelSeen (x : Bool) (s : State) : State := { s with session.cancelSeen := x }

/-- The status a flush answers (R134): ACK, or NAK when a data byte was discarded. -/
def streamStatus (ovf : Bool) : Byte := if ovf then nakByte else ackByte

end Sys2Proof.Machine
end

