-- ==== Sys2Proof/Machine/Read.lean ====
section
/-! DEFINITION. The meanings of READ_BYTE and READ_STREAM (42_protocol.md R150, R151). -/

namespace Sys2Proof.Machine

/-- The READ_DATA action (R131): no byte is consumed for it; the Tx follows the whole sequence. -/
def readDataAction (s : State) : State :=
  let r := readByte s.session.addr s
  enter .waitInstruction (respond r.1 r.2)

/-- READ_BYTE (R150): R127; R128; R129 and R130 into READ_DATA, then R131 in the same step. -/
def execReadByte (r : ReadByteRole) (s : State) : Host.Outcome State Fault Refusal :=
  match r with
  | .opcode => .next (beginFrame opReadByte s)
  | .addrHi b => .next (takeAddrHigh b s)
  | .addrLo b => .next (readDataAction (enter .readData (takeAddrLow b s)))

/-- The completion of a READ_STREAM (R130): the range, then the pending start cleared. -/
def performRange (s : State) : State :=
  enter .waitInstruction (clearRangeStart (readRange s.session.rsStart s.session.addr s))

/-- READ_STREAM (R151): the start is stored and the address states are entered again; the end address
performs the range. -/
def execReadStream (r : ReadStreamRole) (s : State) : Host.Outcome State Fault Refusal :=
  match r with
  | .opcode => .next (beginFrame opReadStream s)
  | .startHi b => .next (takeAddrHigh b s)
  | .startLo b => .next (enter .waitAddrHigh (storeRangeStart (takeAddrLow b s)))
  | .endHi b => .next (takeAddrHigh b s)
  | .endLo b => .next (performRange (takeAddrLow b s))

end Sys2Proof.Machine
end

