-- ==== Sys2Proof/Machine/Status.lean ====
section
/-! DEFINITION. The meanings of HANDSHAKE, CANCEL and UNKNOWN (42_protocol.md R155 to R157): one status byte,
no field of S and no bus line changes (R158). -/

namespace Sys2Proof.Machine

/-- HANDSHAKE (R155). -/
def execHandshake (s : State) : Host.Outcome State Fault Refusal := .next (respond ackByte s)

/-- CANCEL as a command (R156), a no-op. -/
def execCancel (s : State) : Host.Outcome State Fault Refusal := .next (respond ackByte s)

/-- UNKNOWN (R157), ERR_UNKNOWN_INSTR (60_exceptions.md R172): the byte's value does not matter. -/
def execUnknown (_b : Byte) (s : State) : Host.Outcome State Fault Refusal :=
  .next (respond nakByte s)

end Sys2Proof.Machine
end

