-- ==== Sys2Proof/Machine/Stream.lean ====
section
/-! DEFINITION. The pending-write buffer: append and flush (42_protocol.md R133, R134). -/

namespace Sys2Proof.Machine

/-- append(v) (R133): v is discarded and S.ovf set when the buffer is full. -/
def append (v : Byte) (s : State) : State :=
  if s.session.len < s.cfg.pageCap then { s with session.buf := s.session.buf ++ [v] }
  else { s with session.ovf := true }

/-- The flush's loop (R134): the byte at buffer index i goes to (S.addr + i) mod 2^16 (R68). -/
def programFrom (addr : Addr) : Nat → List Byte → State → State
  | _, [], s => s
  | i, v :: vs, s => programFrom addr (i + 1) vs (programByte v (addr + BitVec.ofNat 16 i) s)

/-- flush() (R134): one awaitWriteCycle, also for an empty buffer (R146); S.addr is not changed. -/
def flush (s : State) : State :=
  let s1 := awaitWriteCycle (programFrom s.session.addr 0 s.session.buf s)
  let s2 := respond (streamStatus s.session.ovf) s1
  { s2 with session.buf := [], session.ovf := false, session.st := .waitInstruction }

end Sys2Proof.Machine
end

