-- ==== Sys2Proof/Machine/Write.lean ====
section
/-! DEFINITION. The meanings of WRITE_BYTE and WRITE_STREAM (42_protocol.md R140, R141). -/

namespace Sys2Proof.Machine

/-- WRITE_BYTE (R140): R127; R128; R129 and R130; R132. -/
def execWriteByte (r : WriteByteRole) (s : State) : Host.Outcome State Fault Refusal :=
  match r with
  | .opcode => .next (beginFrame opWriteByte s)
  | .addrHi b => .next (takeAddrHigh b s)
  | .addrLo b => .next (enter .waitData (takeAddrLow b s))
  | .data b =>
    .next (s |> programByte b s.session.addr
             |> awaitWriteCycle
             |> respond ackByte
             |> enter .waitInstruction)

/-- WRITE_STREAM (R141): R127; R128; R129 and R130; then R142, R143, R147, and R144 with the flush. -/
def execWriteStream (r : WriteStreamRole) (s : State) : Host.Outcome State Fault Refusal :=
  match r with
  | .opcode => .next (beginFrame opWriteStream s)
  | .addrHi b => .next (takeAddrHigh b s)
  | .addrLo b => .next (enter .waitData (takeAddrLow b s))
  | .data b => .next (append b s)
  | .mark => .next (setCancelSeen true s)
  | .escaped => .next (append opCancel (setCancelSeen false s))
  | .terminator _ => .next (flush (setCancelSeen false s))

end Sys2Proof.Machine
end

