-- ==== Sys2Proof/Syntax.lean ====
section
/-! DEFINITION. The instructions: one constructor for each row of spec/opcode_table.json (R3, R87). -/

namespace Sys2Proof

/-- What one step executes: ONE byte of a command's frame (00_scope.md R17). The constructor is the
command class, the operand is the byte in its place in that command's frame (log 2). -/
inductive Instr where
  | writeByte (r : WriteByteRole)
  | writeStream (r : WriteStreamRole)
  | readByte (r : ReadByteRole)
  | readStream (r : ReadStreamRole)
  | handshake
  | cancel
  | unknown (b : Byte)
  deriving DecidableEq, Repr

end Sys2Proof
end

