-- ==== Sys2Proof/Machine/Dispatch.lean ====
section
/-! DEFINITION. One arm for each instruction. -/

namespace Sys2Proof.Machine

def exec (i : Instr) (s : State) : Host.Outcome State Fault Refusal :=
  match i with
  | .writeByte r => Sys2Proof.Machine.execWriteByte r s
  | .writeStream r => Sys2Proof.Machine.execWriteStream r s
  | .readByte r => Sys2Proof.Machine.execReadByte r s
  | .readStream r => Sys2Proof.Machine.execReadStream r s
  | .handshake => Sys2Proof.Machine.execHandshake s
  | .cancel => Sys2Proof.Machine.execCancel s
  | .unknown b => Sys2Proof.Machine.execUnknown b s

end Sys2Proof.Machine
end

