-- ==== Sys2Proof/Syntax/Frame.lean ====
section
/-! DEFINITION. Whole frames: a command with all its operands (30_encoding.md R77 to R83). -/

namespace Sys2Proof

/-- A frame. `skipped` of a READ_STREAM counts the start addresses 0xFFFF that were not retained
(R80: the length is 5 + 2 j bytes). `t` of a WRITE_STREAM is the disambiguator (R78). -/
inductive Frame where
  | writeByte (addr : Addr) (data : Byte)
  | writeStream (addr : Addr) (data : List Byte) (t : Byte)
  | readByte (addr : Addr)
  | readStream (skipped : Nat) (start stop : Addr)
  | handshake
  | cancel
  | unknown (b : Byte)
  deriving DecidableEq, Repr

end Sys2Proof
end

