-- ==== Sys2Proof/WellFormed.lean ====
section
/-! DEFINITION. Which instructions and frames the encoding admits (30_encoding.md R77 to R83). -/

namespace Sys2Proof

/-- A stream data byte and a disambiguator are no 0xFF (R78); an UNKNOWN byte is none of the six command
bytes (R83); every other byte in its place is any byte (R84, R85). -/
def Instr.wf : Instr → Bool
  | .writeByte _ => true
  | .writeStream .opcode => true
  | .writeStream (.addrHi _) => true
  | .writeStream (.addrLo _) => true
  | .writeStream (.data b) => b != opCancel
  | .writeStream .mark => true
  | .writeStream .escaped => true
  | .writeStream (.terminator t) => t != opCancel
  | .readByte _ => true
  | .readStream _ => true
  | .handshake => true
  | .cancel => true
  | .unknown b => !isCommandByte b

/-- Under SENTINEL_ALIAS a start address 0xFFFF is not retained, so a frame's retained start is another
address and any number of pairs FF FF may stand before it; without it there is one start (R80, R152). -/
def Frame.wf (sentinelAlias : Bool) : Frame → Bool
  | .writeByte _ _ => true
  | .writeStream _ _ t => t != opCancel
  | .readByte _ => true
  | .readStream skipped start _ =>
      if sentinelAlias then start != rsSentinel else skipped == 0
  | .handshake => true
  | .cancel => true
  | .unknown b => !isCommandByte b

end Sys2Proof
end

