-- ==== Sys2Proof/Decode.lean ====
section
/-! DEFINITION. The decoder of one byte in its context, the decoder of whole frames, and after them the
encoders (30_encoding.md). -/

namespace Sys2Proof

/-- S.instr as one of the four commands with operand bytes; none for the values no branch has (R130). -/
def commandOf (instr : Byte) : Option Command :=
  if instr = opWriteByte then some .writeByte
  else if instr = opWriteStream then some .writeStream
  else if instr = opReadByte then some .readByte
  else if instr = opReadStream then some .readStream
  else none

/-- The opcode map of the command byte (R76, R87): compared whole, the default row last. -/
def decodeCommand (b : Byte) : Instr :=
  if b = opWriteByte then .writeByte .opcode
  else if b = opWriteStream then .writeStream .opcode
  else if b = opReadByte then .readByte .opcode
  else if b = opReadStream then .readStream .opcode
  else if b = opHandshake then .handshake
  else if b = opCancel then .cancel
  else .unknown b

/-- The place of a READ_STREAM's high address byte: of the end once a start is pending (R130). -/
def rangeHiRole (rsPending : Bool) (b : Byte) : ReadStreamRole :=
  match rsPending with
  | true => .endHi b
  | false => .startHi b

/-- The place of a READ_STREAM's low address byte (R130). -/
def rangeLoRole (rsPending : Bool) (b : Byte) : ReadStreamRole :=
  match rsPending with
  | true => .endLo b
  | false => .startLo b

/-- A byte taken at WAIT_ADDR_HIGH: an address byte of whatever command is pending (R89). -/
def decodeAddrHigh (c : Context) (b : Byte) : Except Reject Instr :=
  match commandOf c.instr with
  | some .writeByte => .ok (.writeByte (.addrHi b))
  | some .writeStream => .ok (.writeStream (.addrHi b))
  | some .readByte => .ok (.readByte (.addrHi b))
  | some .readStream => .ok (.readStream (rangeHiRole c.rsPending b))
  | none => .error .orphanAddrHigh

/-- A byte taken at WAIT_ADDR_LOW (R89, R130). -/
def decodeAddrLow (c : Context) (b : Byte) : Except Reject Instr :=
  match commandOf c.instr with
  | some .writeByte => .ok (.writeByte (.addrLo b))
  | some .writeStream => .ok (.writeStream (.addrLo b))
  | some .readByte => .ok (.readByte (.addrLo b))
  | some .readStream => .ok (.readStream (rangeLoRole c.rsPending b))
  | none => .error .orphanAddrLow

/-- The place of a byte in a WRITE_STREAM data phase (42_protocol.md R132). -/
def streamRole (cancelSeen : Bool) (b : Byte) : WriteStreamRole :=
  match cancelSeen with
  | true => if b = opCancel then .escaped else .terminator b
  | false => if b = opCancel then .mark else .data b

/-- A byte taken at WAIT_DATA (R132): only the two write commands have a branch. -/
def decodeData (c : Context) (b : Byte) : Except Reject Instr :=
  match commandOf c.instr with
  | some .writeByte => .ok (.writeByte (.data b))
  | some .writeStream => .ok (.writeStream (streamRole c.cancelSeen b))
  | some .readByte => .error .orphanData
  | some .readStream => .error .orphanData
  | none => .error .orphanData

/-- The decoder: a byte's meaning is set by the context that takes it (R75, R136). Total on every byte
and context; a byte that no command's frame has a place for is rejected by name. -/
def decode (c : Context) (b : Byte) : Except Reject Instr :=
  match c.st with
  | .waitInstruction => .ok (decodeCommand b)
  | .waitAddrHigh => decodeAddrHigh c b
  | .waitAddrLow => decodeAddrLow c b
  | .waitData => decodeData c b
  | .readData => .error .heldReadData

/-- The data phase of a WRITE_STREAM frame (R78, R90): pairing from the left, up to the first byte other
than 0xFF after an unpaired 0xFF. Answers the data, the disambiguator and the rest. -/
def decodeStream : List Byte → Except FrameReject (List Byte × Byte × List Byte)
  | [] => .error .incomplete
  | [_] => .error .incomplete
  | b :: t :: rest =>
    if b = opCancel then
      if t = opCancel then
        (decodeStream rest).map (fun (d, x, r) => (opCancel :: d, x, r))
      else .ok ([], t, rest)
    else (decodeStream (t :: rest)).map (fun (d, x, r) => (b :: d, x, r))

/-- Format WB after its command byte (R77). -/
def decodeWriteByteFrame : List Byte → Except FrameReject (Frame × List Byte)
  | hi :: lo :: d :: rest => .ok (.writeByte (assembleAddr hi lo) d, rest)
  | _ => .error .incomplete

/-- Format WS after its command byte (R78). -/
def decodeWriteStreamFrame : List Byte → Except FrameReject (Frame × List Byte)
  | hi :: lo :: rest =>
    (decodeStream rest).map (fun (d, t, r) => (.writeStream (assembleAddr hi lo) d t, r))
  | _ => .error .incomplete

/-- Format RB after its command byte (R79). -/
def decodeReadByteFrame : List Byte → Except FrameReject (Frame × List Byte)
  | hi :: lo :: rest => .ok (.readByte (assembleAddr hi lo), rest)
  | _ => .error .incomplete

/-- The end address of a READ_STREAM frame whose start was retained (R80). -/
def decodeRangeEnd (start : Addr) : List Byte → Except FrameReject (Nat × Addr × Addr × List Byte)
  | eh :: el :: r => .ok (0, start, assembleAddr eh el, r)
  | _ => .error .incomplete

/-- The address pairs of a READ_STREAM frame (R80): the number of starts not retained, the retained
start, the end, and the rest. -/
def decodeRange (sentinelAlias : Bool) :
    List Byte → Except FrameReject (Nat × Addr × Addr × List Byte)
  | sh :: sl :: rest =>
    if sentinelAlias = true ∧ assembleAddr sh sl = rsSentinel then
      (decodeRange sentinelAlias rest).map (fun (k, s, e, r) => (k + 1, s, e, r))
    else decodeRangeEnd (assembleAddr sh sl) rest
  | _ => .error .incomplete

/-- The decoder of whole frames, from a byte taken at WAIT_INSTRUCTION on (R90): the frame and the bytes
after it. SENTINEL_ALIAS decides where a READ_STREAM ends. -/
def decodeFrame (sentinelAlias : Bool) : List Byte → Except FrameReject (Frame × List Byte)
  | [] => .error .incomplete
  | c :: bs =>
    match decodeCommand c with
    | .writeByte _ => decodeWriteByteFrame bs
    | .writeStream _ => decodeWriteStreamFrame bs
    | .readByte _ => decodeReadByteFrame bs
    | .readStream _ =>
      (decodeRange sentinelAlias bs).map (fun (k, s, e, r) => (.readStream k s e, r))
    | .handshake => .ok (.handshake, bs)
    | .cancel => .ok (.cancel, bs)
    | .unknown b => .ok (.unknown b, bs)

/-- The byte an instruction stands for (R77 to R83). -/
def encodeByte : Instr → Byte
  | .writeByte .opcode => opWriteByte
  | .writeByte (.addrHi b) => b
  | .writeByte (.addrLo b) => b
  | .writeByte (.data b) => b
  | .writeStream .opcode => opWriteStream
  | .writeStream (.addrHi b) => b
  | .writeStream (.addrLo b) => b
  | .writeStream (.data b) => b
  | .writeStream .mark => opCancel
  | .writeStream .escaped => opCancel
  | .writeStream (.terminator t) => t
  | .readByte .opcode => opReadByte
  | .readByte (.addrHi b) => b
  | .readByte (.addrLo b) => b
  | .readStream .opcode => opReadStream
  | .readStream (.startHi b) => b
  | .readStream (.startLo b) => b
  | .readStream (.endHi b) => b
  | .readStream (.endLo b) => b
  | .handshake => opHandshake
  | .cancel => opCancel
  | .unknown b => b

/-- The words of an instruction: one byte, the unit of the encoding (R75). -/
def encode (i : Instr) : List Byte := [encodeByte i]

/-- The contexts in which an instruction's byte stands in its place (R77 to R80, R132). -/
def Context.expects (c : Context) : Instr → Bool
  | .writeByte .opcode => c.st == .waitInstruction
  | .writeByte (.addrHi _) => c.st == .waitAddrHigh && c.instr == opWriteByte
  | .writeByte (.addrLo _) => c.st == .waitAddrLow && c.instr == opWriteByte
  | .writeByte (.data _) => c.st == .waitData && c.instr == opWriteByte
  | .writeStream .opcode => c.st == .waitInstruction
  | .writeStream (.addrHi _) => c.st == .waitAddrHigh && c.instr == opWriteStream
  | .writeStream (.addrLo _) => c.st == .waitAddrLow && c.instr == opWriteStream
  | .writeStream (.data _) => c.st == .waitData && c.instr == opWriteStream && !c.cancelSeen
  | .writeStream .mark => c.st == .waitData && c.instr == opWriteStream && !c.cancelSeen
  | .writeStream .escaped => c.st == .waitData && c.instr == opWriteStream && c.cancelSeen
  | .writeStream (.terminator _) => c.st == .waitData && c.instr == opWriteStream && c.cancelSeen
  | .readByte .opcode => c.st == .waitInstruction
  | .readByte (.addrHi _) => c.st == .waitAddrHigh && c.instr == opReadByte
  | .readByte (.addrLo _) => c.st == .waitAddrLow && c.instr == opReadByte
  | .readStream .opcode => c.st == .waitInstruction
  | .readStream (.startHi _) => c.st == .waitAddrHigh && c.instr == opReadStream && !c.rsPending
  | .readStream (.startLo _) => c.st == .waitAddrLow && c.instr == opReadStream && !c.rsPending
  | .readStream (.endHi _) => c.st == .waitAddrHigh && c.instr == opReadStream && c.rsPending
  | .readStream (.endLo _) => c.st == .waitAddrLow && c.instr == opReadStream && c.rsPending
  | .handshake => c.st == .waitInstruction
  | .cancel => c.st == .waitInstruction
  | .unknown _ => c.st == .waitInstruction

/-- The places of one stream data byte: itself, or the escape pair for 0xFF (R85, R92). -/
def streamDataInstrs (d : Byte) : List Instr :=
  if d = opCancel then [.writeStream .mark, .writeStream .escaped] else [.writeStream (.data d)]

/-- A frame as the instructions its bytes are, one a step (R77 to R83, R91, R92). -/
def Frame.instrs : Frame → List Instr
  | .writeByte a d =>
    [.writeByte .opcode, .writeByte (.addrHi (addrHighByte a)), .writeByte (.addrLo (addrLowByte a)),
      .writeByte (.data d)]
  | .writeStream a ds t =>
    [.writeStream .opcode, .writeStream (.addrHi (addrHighByte a)),
      .writeStream (.addrLo (addrLowByte a))] ++
      ds.flatMap streamDataInstrs ++ [.writeStream .mark, .writeStream (.terminator t)]
  | .readByte a =>
    [.readByte .opcode, .readByte (.addrHi (addrHighByte a)), .readByte (.addrLo (addrLowByte a))]
  | .readStream skipped s e =>
    [.readStream .opcode] ++
      (List.replicate skipped
        [.readStream (.startHi (addrHighByte rsSentinel)),
          .readStream (.startLo (addrLowByte rsSentinel))]).flatten ++
      [.readStream (.startHi (addrHighByte s)), .readStream (.startLo (addrLowByte s)),
        .readStream (.endHi (addrHighByte e)), .readStream (.endLo (addrLowByte e))]
  | .handshake => [.handshake]
  | .cancel => [.cancel]
  | .unknown b => [.unknown b]

/-- The bytes of a frame on the wire. -/
def Frame.bytes (f : Frame) : List Byte := f.instrs.map encodeByte

/-- The bytes of a table word, bit 0 the least significant bit of the first byte: the table gives each row
its command byte alone, and one byte is one instruction here (log 2). -/
def tableBytes (nbits w : Nat) : List Byte :=
  (List.range (max 1 ((nbits + 7) / 8))).map (fun k => BitVec.ofNat 8 (w / 2 ^ (8 * k)))

/-- The context a table word is decoded in: its byte is the command byte (R76). -/
def commandContext : Context :=
  { st := .waitInstruction, instr := 0x00#8, rsPending := false, cancelSeen := false }

/-- The instruction the decoder reads from a row of spec/opcode_table.json (log 17). -/
def decodeTableWord (nbits w : Nat) : Option Instr :=
  match tableBytes nbits w with
  | [] => none
  | b :: _ => (decode commandContext b).toOption

end Sys2Proof
end

