-- ==== Sys2Proof/Machine/Fetch.lean ====
section
/-! DEFINITION. Taking a byte from Rx, and the meaning of a byte that no command's frame has a place for
(42_protocol.md R125, R128, R135). -/

namespace Sys2Proof.Machine

/-- Take the oldest byte of Rx (10_state.md R41): none when Rx is empty (R126). -/
def takeByte (s : State) : Option (Byte × State) :=
  match s.rx with
  | [] => none
  | b :: rest => some (b, { s with rx := rest })

/-- The step of a byte the decoder rejects by name (log 4). At WAIT_ADDR_HIGH the transition is
unconditional (R128). At WAIT_ADDR_LOW the address assembly precedes the dispatch that finds no branch
(R129, R135). At WAIT_DATA only S.st changes (R135). At a held READ_DATA R125 performs R131 after the
byte. -/
def runRejected (r : Reject) (b : Byte) (s : State) : State :=
  match r with
  | .orphanAddrHigh => takeAddrHigh b s
  | .orphanAddrLow => recover (takeAddrLow b s)
  | .orphanData => recover s
  | .heldReadData => readDataAction s

/-- Place bytes where the core takes its next ones: first in Rx, with the gate passed and the core waiting
for a command (log 17). -/
def placeCommand (bs : List Byte) (s : State) : State :=
  { s with phase := .run, session.st := .waitInstruction, rx := bs ++ s.rx }

end Sys2Proof.Machine
end

