-- ==== Sys2Proof/Machine/Gate.lean ====
section
/-! DEFINITION. The Connection Gate (60_exceptions.md R184, R185). -/

namespace Sys2Proof.Machine

/-- The level of CONN that the next poll observes; with no level left it is 0 (log 13). -/
def connLevel (s : State) : Bool := s.conn.headD false

/-- No connection: the indicator toggles after a half-period (R185). -/
def blink (s : State) : State :=
  record (.ind (!s.ind)) { delay .blink s with ind := !s.ind }

/-- One poll of the gate: "proceeds the instant a connection is detected" (R184). No byte is taken and
nothing is emitted (R137). -/
def gatePoll (s : State) : State :=
  let s1 := { s with conn := s.conn.tail }
  if connLevel s then { s1 with phase := .run } else blink s1

end Sys2Proof.Machine
end

