-- ==== Sys2Proof/Machine/Step.lean ====
section
/-! DEFINITION. One step of the core: a poll while GATED, the processing of one byte in the RUN phase
(00_scope.md R17, 42_protocol.md R125). -/

namespace Sys2Proof.Machine

/-- One step. With Rx empty the core waits in whatever state it is in (R126, log 3). -/
def step (s : State) : Host.Outcome State Fault Refusal :=
  match s.phase with
  | .gated => .next (gatePoll s)
  | .run =>
    match takeByte s with
    | none => .next s
    | some (b, s1) =>
      match decode s.context b with
      | .ok i => exec i s1
      | .error r => .next (runRejected r b s1)

/-- The state whose very next step takes the table word's byte as a command byte (log 17). -/
def State.withFetchWord (s : State) (nbits w : Nat) : State := placeCommand (tableBytes nbits w) s

end Sys2Proof.Machine
end

