-- ==== Sys2Proof/Machine/HostActions.lean ====
section
/-! DEFINITION. What the outside world can do to the machine: deliver bytes, connect, and reset the device, between
two steps or within one (10_state.md R41, R42; 60_exceptions.md R179; 70_reset_and_hazards.md R190). These are not
steps of the core. -/

namespace Sys2Proof.Machine

/-- The transport delivers bytes, in order (R41). -/
def State.deliver (bs : List Byte) (s : State) : State := { s with rx := s.rx ++ bs }

/-- CONN will show these levels to the gate's polls after those it already holds (R42). -/
def State.observeConn (levels : List Bool) (s : State) : State := { s with conn := s.conn ++ levels }

/-- The control lines take their reset values (R191, first). A write pulse that the reset finds asserted ends
here: WE goes from 1 to 0 with the direction, the address and the latch still as they were, so the chip takes
the byte where 20_memory.md R59 says it does (log 23). -/
def resetControlLines (s : State) : State :=
  let s1 := if s.bus.we then chipLatch s else s
  { s1 with bus.we := false, bus.oe := false }

/-- The direction, the address and the latch take theirs (R191, second). -/
def resetDataLines (s : State) : State :=
  { s with bus.dir := Bus.reset.dir, bus.a := Bus.reset.a, bus.dlatch := Bus.reset.dlatch }

/-- The Session State, IND and Tx are created anew (R190, R191, R193). -/
def resetSession (s : State) : State :=
  { s with session := Session.reset, ind := false, tx := [], events := [] }

/-- A device reset (R190), in the order of R191; no bus event is recorded. What Rx holds afterwards is the
transport's matter (R193), so it is an argument. The chip, CONN, the parameters and the fault record are
not the core's to reset (log 16). -/
def State.deviceReset (held : List Byte) (s : State) : State :=
  { resetSession (resetDataLines (resetControlLines s)) with phase := .gated, rx := held }

/-- Do again what one recorded event did: each primitive, delay, response and toggle records exactly one
(R95, R110, R16, R185). -/
def perform (s : State) (e : Event) : State :=
  match e with
  | .setA a => setAddress (a.setWidth 16) s
  | .setDir d => setDataDirection d s
  | .setD v => setDataOut v s
  | .we x => setWriteEnable x s
  | .oe x => setOutputEnable x s
  | .sample _ => (readDataIn s).2
  | .delay k => delay k s
  | .ind x => record (.ind x) { s with ind := x }
  | .tx b => respond b s

/-- Do again what a list of events did, in order. -/
def performAll (es : List Event) (s : State) : State := es.foldl perform s

/-- The step from s cut short: what it has taken from Rx and CONN, and the first k of its events. S stands as
before the step: a reset is all that follows, and it creates S anew (R190). -/
def State.partOfStep (k : Nat) (s : State) : State :=
  match step s with
  | .next t => performAll ((stepEvents s t).take k) { s with rx := t.rx, conn := t.conn }
  | .fault _ => s
  | .refused _ => s

/-- A device reset within a step (R179, R190): the step in progress is discarded once it has recorded k events.
A delay that the reset cuts has not ended, so it is not among them (log 16). -/
def State.resetDuring (k : Nat) (held : List Byte) (s : State) : State :=
  (s.partOfStep k).deviceReset held

end Sys2Proof.Machine
end

