-- ==== Sys2Proof/Machine/Pins.lean ====
section
/-! DEFINITION. The pins as functions of the bus state (10_state.md R39; 20_memory.md R53; 40_bus_driver.md
R99), and the spec's own encodings of S.phase and Bus.DIR. -/

namespace Sys2Proof.Machine

/-- The levels of the core's pins. `data` is none where the core leaves D0..D7 undriven. -/
structure Pins where
  addr : BusAddr
  data : Option Byte
  weN : Bool
  oeN : Bool
  deriving DecidableEq, Repr

/-- The pin relation (R39): the control pins are active low (R99). -/
def Bus.pins (b : Bus) : Pins where
  addr := b.a
  data := match b.dir with
    | .output => some b.dlatch
    | .input => none
  weN := !b.we
  oeN := !b.oe

/-- The physical line of each logical bit with the level the core drives on it, none where it drives none
(R39, R53, 00_scope.md R15). -/
def physicalLevels (m : LineMap) (p : Pins) : List (Nat × Option Bool) :=
  (List.finRange 15).map (fun i => (m.addr[i], some (p.addr.getLsb i))) ++
  (List.finRange 8).map (fun i => (m.data[i], p.data.map (fun v => v.getLsb i)))

/-- GATED = 0, RUN = 1 (R22); not observable. -/
def phaseCode : Phase → BitVec 1
  | .gated => 0#1
  | .run => 1#1

/-- OUT = 0, IN = 1 (R40). -/
def dirCode : Dir → BitVec 1
  | .output => 0#1
  | .input => 1#1

end Sys2Proof.Machine
end

