-- ==== Sys2Proof/Machine/Timing.lean ====
section
/-! DEFINITION. The minima of the delays (00_scope.md R12, 70_reset_and_hazards.md R206). No rule depends on a
duration; the table only gives the latency bounds of R207 their numbers. -/

namespace Sys2Proof.Machine

/-- The minimum of a timing constant in nanoseconds. BLINK is "about 200 ms", a nominal value (log 18). -/
def DelayKind.minNanos : DelayKind → Nat
  | .wp => 100
  | .dh => 50
  | .acc => 1000
  | .wc => 10000000
  | .blink => 200000000

/-- The least time an event takes: only delays have a bound. -/
def Event.minNanos : Event → Nat
  | .setA _ => 0
  | .setDir _ => 0
  | .setD _ => 0
  | .we _ => 0
  | .oe _ => 0
  | .sample _ => 0
  | .delay k => k.minNanos
  | .ind _ => 0
  | .tx _ => 0

/-- The least time a list of events takes. -/
def minNanosOf (es : List Event) : Nat := (es.map Event.minNanos).sum

/-- The bytes that a list of events emits. -/
def txBytes : List Event → List Byte
  | [] => []
  | .tx b :: es => b :: txBytes es
  | .setA _ :: es => txBytes es
  | .setDir _ :: es => txBytes es
  | .setD _ :: es => txBytes es
  | .we _ :: es => txBytes es
  | .oe _ :: es => txBytes es
  | .sample _ :: es => txBytes es
  | .delay _ :: es => txBytes es
  | .ind _ :: es => txBytes es

end Sys2Proof.Machine
end

