-- ==== Sys2Proof/Safety.lean ====
section
/-! DEFINITION. The invariants of 10_state.md section 6, and what a run and its launch premises are
(70_reset_and_hazards.md R209, R210). -/

namespace Sys2Proof.Machine

/-- The idle posture (10_state.md R46, 00_scope.md R19). -/
abbrev Bus.Idle (b : Bus) : Prop := b.dir = .output ∧ b.we = false ∧ b.oe = false

/-- The core waits for an operand byte of a command with operands (R45 a). -/
abbrev Session.InstrKnown (S : Session) : Prop :=
  S.st = .waitAddrHigh ∨ S.st = .waitAddrLow ∨ S.st = .waitData →
    S.instr = opWriteByte ∨ S.instr = opWriteStream ∨ S.instr = opReadByte ∨ S.instr = opReadStream

/-- WAIT_DATA belongs to the write commands (R45 b). -/
abbrev Session.DataOfWrite (S : Session) : Prop :=
  S.st = .waitData → S.instr = opWriteByte ∨ S.instr = opWriteStream

/-- The buffer and its two bits are in use only in a WRITE_STREAM data phase (R45 c). -/
abbrev Session.StreamBits (S : Session) : Prop :=
  ¬ (S.st = .waitData ∧ S.instr = opWriteStream) →
    S.buf = [] ∧ S.cancelSeen = false ∧ S.ovf = false

/-- A pending start belongs to a READ_STREAM whose end address is awaited (R45 d). -/
abbrev Session.PendingOfRange (S : Session) : Prop :=
  ¬ (S.instr = opReadStream ∧ (S.st = .waitAddrHigh ∨ S.st = .waitAddrLow)) → S.rsPending = false

/-- "No start pending" holds the sentinel in S.rsStart (R29). -/
abbrev Session.SentinelHeld (S : Session) : Prop := S.rsPending = false → S.rsStart = rsSentinel

/-- R45 (a) to (e) with R29. -/
abbrev Session.Consistent (S : Session) : Prop :=
  S.InstrKnown ∧ S.DataOfWrite ∧ S.StreamBits ∧ S.PendingOfRange ∧ S.st ≠ .readData ∧ S.SentinelHeld

/-- The invariant of the machine between steps, resets included: R45, R46, R47; the gate precedes the loop
(R184); no fault is recorded (40_bus_driver.md R107); the cells are in canonical form; Tx is what the event
list emits (R16). -/
abbrev State.Inv (s : State) : Prop :=
  s.session.Consistent ∧ s.bus.Idle ∧ s.session.len ≤ s.cfg.pageCap ∧
  (s.phase = .gated → s.session.st = .waitInstruction) ∧
  s.faults = FaultSet.none ∧ s.chip.cells.wf ∧ s.tx = txBytes s.events

/-- The chip is in no internal write cycle (20_memory.md R60). Every step keeps it between steps; a device
reset that cuts a write does not (log 23). -/
abbrev State.Settled (s : State) : Prop := s.chip.busy = false

/-- The end of a run that counts as successful (R209): every byte taken, no fault recorded. -/
abbrev State.EndsSuccessfully (s : State) : Prop :=
  s.phase = .run ∧ s.rx = [] ∧ s.faults = FaultSet.none

/-- A launch state of R210: past the gate, the invariants, no fault recorded. The environment and the
parameters are named by the state itself. -/
abbrev State.Launch (s : State) : Prop := s.phase = .run ∧ s.Inv

/-- k steps from s (R209); Laws/Step.lean shows that it is the host's Core.run of the machine. -/
def runSteps : Nat → State → Host.Outcome State Fault Refusal
  | 0, s => .next s
  | k + 1, s =>
    match step s with
    | .next t => runSteps k t
    | .fault r => .fault r
    | .refused r => .refused r

end Sys2Proof.Machine
end

