-- ==== Sys2Proof/Safety/Traces.lean ====
section
/-! DEFINITION. The event lists and the chip states that the rules of 41_eeprom_ops.md write out, in the terms
the statements use. The machine does not use them. -/

namespace Sys2Proof.Machine

/-- The events of programByte (R113). -/
def programTrace (data : Byte) (addr : Addr) : List Event :=
  [.setA (busAddr addr), .setDir .output, .setD data, .we true, .delay .wp, .we false, .delay .dh]

/-- The events of readByte that sampled v (R116). -/
def readTrace (addr : Addr) (v : Byte) : List Event :=
  [.setDir .input, .setA (busAddr addr), .oe true, .delay .acc, .sample v, .oe false,
    .setDir .output]

/-- The events of readRange's loop (R118) that sampled vs at a, a + 1, ...: the first address was already
set, a Tx follows each sample. -/
def rangeLoopTrace (start : Addr) : Nat → List Byte → List Event
  | _, [] => []
  | a, v :: vs =>
    (if a = start.toNat then [] else [.setA (busAddr (BitVec.ofNat 16 a))]) ++
      [.delay .acc, .sample v, .tx v] ++ rangeLoopTrace start (a + 1) vs

/-- The events of a non-empty readRange that sampled vs (R118). -/
def rangeTrace (start : Addr) (vs : List Byte) : List Event :=
  [.setDir .input, .setA (busAddr start), .oe true] ++ rangeLoopTrace start start.toNat vs ++
    [.oe false, .setDir .output]

/-- The events of the flush's loop over the buffer ds from index i on (R134). -/
def programsTrace (addr : Addr) : Nat → List Byte → List Event
  | _, [] => []
  | i, d :: ds => programTrace d (addr + BitVec.ofNat 16 i) ++ programsTrace addr (i + 1) ds

/-- The cells after the flush's loop: byte i at bus((addr + i) mod 2^16), in ascending i (R68). -/
def writeCells (addr : Addr) : Nat → List Byte → Memory → Memory
  | _, [], m => m
  | i, d :: ds, m =>
    writeCells addr (i + 1) ds (m.write (busAddr (addr + BitVec.ofNat 16 i)).toNat d)

/-- The cells of a chip after writes f: the reference environment's change, a free one's are not modelled
(log 8). -/
def Chip.cellsAfter (c : Chip) (f : Memory → Memory) : Memory :=
  match c.env with
  | .reference => f c.cells
  | .free => c.cells

/-- The chip after one write pulse (20_memory.md R59, R60). -/
def Chip.programmed (c : Chip) (a : BusAddr) (d : Byte) : Chip :=
  match c.env with
  | .reference => { c with cells := Memory.write c.cells a.toNat d, busy := true }
  | .free => c

/-- The cells that the wire addresses a, a + 1, ..., n of them, reach (R69). -/
def State.cellsFrom (s : State) : Nat → Nat → List Byte
  | _, 0 => []
  | a, n + 1 => s.cell (busAddr (BitVec.ofNat 16 a)) :: s.cellsFrom (a + 1) n

/-- A sample in a read posture is the addressed cell: the reference environment, out of the chip's internal
write cycle (R58, R60). -/
def State.determined (s : State) : Bool := s.chip.env == .reference && !s.chip.busy

/-- The k-th sample from s on, in a read posture at bus address a: the cell, or a free draw. -/
def State.sampleAt (s : State) (k : Nat) (a : BusAddr) : Byte :=
  if s.determined then s.cell a else Config.freeSample (s.draws + k)

/-- The n samples from the k-th on at the wire addresses a, a + 1, ... -/
def State.samplesFrom (s : State) : Nat → Nat → Nat → List Byte
  | _, _, 0 => []
  | k, a, n + 1 => s.sampleAt k (busAddr (BitVec.ofNat 16 a)) :: s.samplesFrom (k + 1) (a + 1) n

/-- The draw counter after n samples in a read posture. -/
def State.drawsAfter (s : State) (n : Nat) : Nat := if s.determined then s.draws else s.draws + n

/-- The chip after the flush's loop over the buffer from index i on. -/
def Chip.programmedFrom (addr : Addr) : Nat → List Byte → Chip → Chip
  | _, [], c => c
  | i, d :: ds, c =>
    Chip.programmedFrom addr (i + 1) ds (c.programmed (busAddr (addr + BitVec.ofNat 16 i)) d)

/-- The bus after programByte (R113): the lines still driven with the data. -/
def busAfterProgram (data : Byte) (addr : Addr) : Bus where
  a := busAddr addr
  dlatch := data
  dir := .output
  we := false
  oe := false

/-- The bus after the flush's loop over the buffer from index i on: the last byte's, or the old one. -/
def busAfterPrograms (addr : Addr) : Nat → List Byte → Bus → Bus
  | _, [], b => b
  | i, d :: ds, _ => busAfterPrograms addr (i + 1) ds (busAfterProgram d (addr + BitVec.ofNat 16 i))

end Sys2Proof.Machine
end

