-- ==== Sys2Proof/Certificates/Slice0/Obligations.lean ====
section
/-! DEFINITION. The statements for the provers. Each docstring names the rules of spec/ the statement is about; a
clause that rests on a decision of the spec (D n of 92_eei_decisions.md) or on a log entry says so. -/

open Sys2Proof
open Sys2Proof.Machine

namespace Sys2Proof.Claims

/-- The command byte of a command with operands (R127): the only bytes that write S.instr (R25). -/
def isOpcode : Instr → Bool
  | .writeByte .opcode => true
  | .writeByte (.addrHi _) => false
  | .writeByte (.addrLo _) => false
  | .writeByte (.data _) => false
  | .writeStream .opcode => true
  | .writeStream (.addrHi _) => false
  | .writeStream (.addrLo _) => false
  | .writeStream (.data _) => false
  | .writeStream .mark => false
  | .writeStream .escaped => false
  | .writeStream (.terminator _) => false
  | .readByte .opcode => true
  | .readByte (.addrHi _) => false
  | .readByte (.addrLo _) => false
  | .readStream .opcode => true
  | .readStream (.startHi _) => false
  | .readStream (.startLo _) => false
  | .readStream (.endHi _) => false
  | .readStream (.endLo _) => false
  | .handshake => false
  | .cancel => false
  | .unknown _ => false

/-- The address bytes: the only ones that write S.addr (R26). -/
def isAddrByte : Instr → Bool
  | .writeByte .opcode => false
  | .writeByte (.addrHi _) => true
  | .writeByte (.addrLo _) => true
  | .writeByte (.data _) => false
  | .writeStream .opcode => false
  | .writeStream (.addrHi _) => true
  | .writeStream (.addrLo _) => true
  | .writeStream (.data _) => false
  | .writeStream .mark => false
  | .writeStream .escaped => false
  | .writeStream (.terminator _) => false
  | .readByte .opcode => false
  | .readByte (.addrHi _) => true
  | .readByte (.addrLo _) => true
  | .readStream .opcode => false
  | .readStream (.startHi _) => true
  | .readStream (.startLo _) => true
  | .readStream (.endHi _) => true
  | .readStream (.endLo _) => true
  | .handshake => false
  | .cancel => false
  | .unknown _ => false

/-- The bytes of a WRITE_STREAM data phase. -/
def isStreamByte : Instr → Bool
  | .writeByte _ => false
  | .writeStream .opcode => false
  | .writeStream (.addrHi _) => false
  | .writeStream (.addrLo _) => false
  | .writeStream (.data _) => true
  | .writeStream .mark => true
  | .writeStream .escaped => true
  | .writeStream (.terminator _) => true
  | .readByte _ => false
  | .readStream _ => false
  | .handshake => false
  | .cancel => false
  | .unknown _ => false

/-- The low bytes of a READ_STREAM's two addresses: the only ones that write S.rsStart and S.rsPending. -/
def isRangeLow : Instr → Bool
  | .writeByte _ => false
  | .writeStream _ => false
  | .readByte _ => false
  | .readStream .opcode => false
  | .readStream (.startHi _) => false
  | .readStream (.startLo _) => true
  | .readStream (.endHi _) => false
  | .readStream (.endLo _) => true
  | .handshake => false
  | .cancel => false
  | .unknown _ => false

/-- The bytes whose step performs an EEPROM Operation; every other byte moves no bus line. -/
def operates : Instr → Bool
  | .writeByte .opcode => false
  | .writeByte (.addrHi _) => false
  | .writeByte (.addrLo _) => false
  | .writeByte (.data _) => true
  | .writeStream .opcode => false
  | .writeStream (.addrHi _) => false
  | .writeStream (.addrLo _) => false
  | .writeStream (.data _) => false
  | .writeStream .mark => false
  | .writeStream .escaped => false
  | .writeStream (.terminator _) => true
  | .readByte .opcode => false
  | .readByte (.addrHi _) => false
  | .readByte (.addrLo _) => true
  | .readStream .opcode => false
  | .readStream (.startHi _) => false
  | .readStream (.startLo _) => false
  | .readStream (.endHi _) => false
  | .readStream (.endLo _) => true
  | .handshake => false
  | .cancel => false
  | .unknown _ => false

/-- Two states alike but for the chip, the bus lines, the faults, the draws and the values of the responses. -/
def AlikeButForTheChip (s t : State) : Prop :=
  s.cfg = t.cfg ∧ s.phase = t.phase ∧ s.session = t.session ∧ s.ind = t.ind ∧ s.rx = t.rx ∧
  s.conn = t.conn ∧ s.tx.length = t.tx.length

/-- The responses of a run of status commands at WAIT_INSTRUCTION (R127). -/
def statusOf (b : Byte) : Byte := if b = 0xAA#8 ∨ b = 0xFF#8 then 0x06#8 else 0x15#8

end Sys2Proof.Claims

open Sys2Proof.Claims

/-! ### Encoding and decoding -/

/-- R87: the opcode map of the command byte, all 256 values. -/
def Obligations.CommandByteTable : Prop :=
  ∀ c : Context, c.st = .waitInstruction →
    decode c 0x01#8 = .ok (.writeByte .opcode) ∧
    decode c 0x02#8 = .ok (.writeStream .opcode) ∧
    decode c 0x03#8 = .ok (.readByte .opcode) ∧
    decode c 0x04#8 = .ok (.readStream .opcode) ∧
    decode c 0xAA#8 = .ok .handshake ∧
    decode c 0xFF#8 = .ok .cancel ∧
    ∀ b : Byte, b ∉ [0x01#8, 0x02#8, 0x03#8, 0x04#8, 0xAA#8, 0xFF#8] →
      decode c b = .ok (.unknown b)

/-- Every well-formed instruction has a context its byte stands in, and in every such context the decoder
reads it back from its encoding, with its operand at every value the encoding admits. -/
def Obligations.ByteEncodeThenDecode : Prop :=
  ∀ i : Instr, i.wf = true →
    (∃ c : Context, c.expects i = true) ∧
    ∀ c : Context, c.expects i = true → decode c (encodeByte i) = .ok i

/-- What the decoder accepts is well-formed, stands in its place, and encodes to the byte it was read from. -/
def Obligations.ByteDecodeThenEncode : Prop :=
  ∀ (c : Context) (b : Byte) (i : Instr), decode c b = .ok i →
    encodeByte i = b ∧ i.wf = true ∧ c.expects i = true

/-- Where the decoder rejects a byte by name: exactly where S.st is left at READ_DATA or the state has no branch for
S.instr, whatever the byte. The rejection is the model's own (log 4, DEDUCED), not R89's or R135's: at
WAIT_ADDR_HIGH R128 is unconditional and the step performs it for a rejected byte too (WaitAddrHighRule), R135's
states take the recovery (RecoveryRule), and no rule gives a byte taken at READ_DATA a case. -/
def Obligations.RejectedOnlyWithoutABranch : Prop :=
  ∀ (c : Context) (b : Byte), (∃ r, decode c b = .error r) ↔
    c.st = .readData ∨
    ((c.st = .waitAddrHigh ∨ c.st = .waitAddrLow) ∧
      c.instr ∉ [0x01#8, 0x02#8, 0x03#8, 0x04#8]) ∨
    (c.st = .waitData ∧ c.instr ∉ [0x01#8, 0x02#8])

/-- Decoding the bytes of a well-formed frame gives the frame back and leaves the bytes after it. -/
def Obligations.FrameEncodeThenDecode : Prop :=
  ∀ (sentinelAlias : Bool) (f : Frame) (rest : List Byte), f.wf sentinelAlias = true →
    decodeFrame sentinelAlias (f.bytes ++ rest) = .ok (f, rest)

/-- A decoded frame is well-formed and its bytes, with the rest, are the bytes it was read from. -/
def Obligations.FrameDecodeThenEncode : Prop :=
  ∀ (sentinelAlias : Bool) (bs rest : List Byte) (f : Frame),
    decodeFrame sentinelAlias bs = .ok (f, rest) →
    f.wf sentinelAlias = true ∧ f.bytes ++ rest = bs

/-- R90: the frame decoder and the state machine agree on where a frame ends: the decoder reads the frame and
leaves the bytes after it, and after the frame's last byte, and after no earlier one, the machine is back at
WAIT_INSTRUCTION with those bytes in Rx. -/
def Obligations.FrameEndsWhereTheMachineReturns : Prop :=
  ∀ (s : State) (f : Frame) (rest : List Byte),
    s.Launch → s.session.st = .waitInstruction → f.wf s.cfg.sentinelAlias = true →
    s.rx = f.bytes ++ rest →
    decodeFrame s.cfg.sentinelAlias s.rx = .ok (f, rest) ∧
    (∃ t, runSteps f.bytes.length s = .next t ∧ t.session.st = .waitInstruction ∧ t.rx = rest) ∧
    ∀ k, 0 < k → k < f.bytes.length →
      ∃ t, runSteps k s = .next t ∧ t.session.st ≠ .waitInstruction

/-! ### The step -/

/-- R125: in the RUN phase a step takes one byte, decodes it in the state's context, and runs the instruction
at the state without the byte. -/
def Obligations.StepRunsTheDecodedInstruction : Prop :=
  ∀ (s : State) (b : Byte) (rest : List Byte) (i : Instr),
    s.phase = .run → s.rx = b :: rest → decode s.context b = .ok i →
    step s = exec i { s with rx := rest }

/-- Nothing in this core is fatal (60_exceptions.md section 1): every instruction answers a next state in every
state, and so does every step. Three kinds of state are covered by the model's readings: an empty Rx, where the step
answers the same state (log 3; 93 U11 calls the wait stuck, not a fault), S.st held at READ_DATA (log 4), and a
recorded bus fault, after which the machine goes on (log 12). exec in a state that does not give the byte its place
is log 20's. -/
def Obligations.NothingIsFatal : Prop :=
  (∀ (i : Instr) (s : State), ∃ t, exec i s = .next t) ∧ ∀ s : State, ∃ t, step s = .next t

/-- R41, R126, R208: in the RUN phase a step takes exactly the oldest byte and never looks at the ones behind it, so
bytes delivered during the step wait and are taken afterwards. With Rx empty the core waits and its state stays,
which is the model's reading of R126 (log 3). -/
def Obligations.OneByteAStepWithoutLookahead : Prop :=
  (∀ (s t : State) (b : Byte) (rest later : List Byte),
    s.phase = .run → step { s with rx := b :: rest } = .next t →
    t.rx = rest ∧ step { s with rx := b :: later } = .next { t with rx := later }) ∧
  ∀ s : State, s.phase = .run → s.rx = [] → step s = .next s

/-- R127, the whole rule. -/
def Obligations.WaitInstructionRule : Prop :=
  ∀ (s : State) (b : Byte) (rest : List Byte),
    s.phase = .run → s.rx = b :: rest → s.session.st = .waitInstruction →
    step s = .next (
      if b = 0x01#8 ∨ b = 0x02#8 ∨ b = 0x03#8 ∨ b = 0x04#8 then
        { s with rx := rest, session.instr := b, session.st := .waitAddrHigh }
      else if b = 0xAA#8 ∨ b = 0xFF#8 then
        { s with rx := rest, tx := s.tx ++ [0x06#8], events := s.events ++ [.tx 0x06#8] }
      else
        { s with rx := rest, tx := s.tx ++ [0x15#8], events := s.events ++ [.tx 0x15#8] })

/-- R128, for every value of S.instr; the low byte's zero is the spec's decision D24. -/
def Obligations.WaitAddrHighRule : Prop :=
  ∀ (s : State) (b : Byte) (rest : List Byte),
    s.phase = .run → s.rx = b :: rest → s.session.st = .waitAddrHigh →
    step s = .next
      { s with rx := rest, session.addr := b.setWidth 16 <<< 8, session.st := .waitAddrLow }

/-- R129 and R130 with R131 and R152, every branch but the recovery (RecoveryRule). -/
def Obligations.WaitAddrLowRule : Prop :=
  ∀ (s s1 : State) (b : Byte) (rest : List Byte),
    s.phase = .run → s.rx = b :: rest → s.session.st = .waitAddrLow →
    s1 = { s with rx := rest, session.addr := s.session.addr.extractLsb' 8 8 ++ b } →
    (s.session.instr = 0x01#8 ∨ s.session.instr = 0x02#8 →
      step s = .next { s1 with session.st := .waitData }) ∧
    (s.session.instr = 0x03#8 →
      step s = .next (enter .waitInstruction
        (respond (readByte s1.session.addr { s1 with session.st := .readData }).1
          (readByte s1.session.addr { s1 with session.st := .readData }).2))) ∧
    (s.session.instr = 0x04#8 → s.session.rsPending = false →
      step s = .next { s1 with
        session.rsStart := s1.session.addr
        session.rsPending := if s.cfg.sentinelAlias then s1.session.addr != 0xFFFF#16 else true
        session.st := .waitAddrHigh }) ∧
    (s.session.instr = 0x04#8 → s.session.rsPending = true →
      step s = .next { readRange s.session.rsStart s1.session.addr s1 with
        session := { s1.session with
          rsStart := 0xFFFF#16, rsPending := false, st := .waitInstruction } })

/-- R142, R143, R144, with R147 and the WRITE_BYTE branch of R132: every branch of WAIT_DATA but the recovery
(RecoveryRule). -/
def Obligations.WaitDataRule : Prop :=
  ∀ (s s1 : State) (b : Byte) (rest : List Byte),
    s.phase = .run → s.rx = b :: rest → s.session.st = .waitData → s1 = { s with rx := rest } →
    (s.session.instr = 0x01#8 →
      step s = .next (enter .waitInstruction
        (respond 0x06#8 (awaitWriteCycle (programByte b s.session.addr s1))))) ∧
    (s.session.instr = 0x02#8 → s.session.cancelSeen = false → b ≠ 0xFF#8 →
      step s = .next (append b s1) ∧ (append b s1).tx = s.tx ∧ (append b s1).events = s.events ∧
        (append b s1).bus = s.bus) ∧
    (s.session.instr = 0x02#8 → s.session.cancelSeen = false → b = 0xFF#8 →
      step s = .next { s1 with session.cancelSeen := true }) ∧
    (s.session.instr = 0x02#8 → s.session.cancelSeen = true → b = 0xFF#8 →
      step s = .next (append 0xFF#8 { s1 with session.cancelSeen := false })) ∧
    (s.session.instr = 0x02#8 → s.session.cancelSeen = true → b ≠ 0xFF#8 →
      step s = .next (flush { s1 with session.cancelSeen := false }))

/-- R135 with the last branches of R130 and R132: the byte of a state with no branch for S.instr. The extent of the
recovery is the spec's decision D10. -/
def Obligations.RecoveryRule : Prop :=
  ∀ (s : State) (b : Byte) (rest : List Byte), s.phase = .run → s.rx = b :: rest →
    (s.session.st = .waitAddrLow → s.session.instr ∉ [0x01#8, 0x02#8, 0x03#8, 0x04#8] →
      step s = .next { s with
        rx := rest, session.addr := s.session.addr.extractLsb' 8 8 ++ b
        session.st := .waitInstruction }) ∧
    (s.session.st = .waitData → s.session.instr ∉ [0x01#8, 0x02#8] →
      step s = .next { s with rx := rest, session.st := .waitInstruction })

/-! ### The results of the instructions -/

/-- R127 to R130 and R152: the bytes that only collect a frame. Each completes in every state, and nothing but the
named fields of S changes. In a state that does not give the byte its place, exec is the model's choice (log 20). -/
def Obligations.CollectingBytesResult : Prop :=
  ∀ (s : State) (b : Byte),
    exec (.writeByte .opcode) s =
      .next { s with session.instr := 0x01#8, session.st := .waitAddrHigh } ∧
    exec (.writeStream .opcode) s =
      .next { s with session.instr := 0x02#8, session.st := .waitAddrHigh } ∧
    exec (.readByte .opcode) s =
      .next { s with session.instr := 0x03#8, session.st := .waitAddrHigh } ∧
    exec (.readStream .opcode) s =
      .next { s with session.instr := 0x04#8, session.st := .waitAddrHigh } ∧
    (∀ i ∈ [Instr.writeByte (.addrHi b), .writeStream (.addrHi b), .readByte (.addrHi b),
        .readStream (.startHi b), .readStream (.endHi b)],
      exec i s = .next
        { s with session.addr := b.setWidth 16 <<< 8, session.st := .waitAddrLow }) ∧
    (∀ i ∈ [Instr.writeByte (.addrLo b), .writeStream (.addrLo b)],
      exec i s = .next
        { s with session.addr := s.session.addr.extractLsb' 8 8 ++ b, session.st := .waitData }) ∧
    exec (.readStream (.startLo b)) s = .next
      { s with
        session.addr := s.session.addr.extractLsb' 8 8 ++ b
        session.rsStart := s.session.addr.extractLsb' 8 8 ++ b
        session.rsPending :=
          if s.cfg.sentinelAlias then
            (s.session.addr.extractLsb' 8 8 ++ b : BitVec 16) != 0xFFFF#16
          else true
        session.st := .waitAddrHigh }

/-- R142, R143, R147 with R133: the bytes of a stream's data phase that only fill the buffer. The overflow is the
spec's decision D4; in a state that does not give the byte its place, exec is the model's choice (log 20). -/
def Obligations.StreamDataBytesResult : Prop :=
  ∀ (s : State) (b : Byte),
    exec (.writeStream (.data b)) s = .next (
      if s.session.len < s.cfg.pageCap then { s with session.buf := s.session.buf ++ [b] }
      else { s with session.ovf := true }) ∧
    exec (.writeStream .mark) s = .next { s with session.cancelSeen := true } ∧
    exec (.writeStream .escaped) s = .next (
      if s.session.len < s.cfg.pageCap then
        { s with session.buf := s.session.buf ++ [0xFF#8], session.cancelSeen := false }
      else { s with session.ovf := true, session.cancelSeen := false })

/-- R140 with R113: a WRITE_BYTE's data byte, from the idle posture: the whole next state. The event for the
direction is the spec's decision D13; a free environment's cells are not modelled (log 8). -/
def Obligations.WriteByteDataResult : Prop :=
  ∀ (s : State) (d : Byte), s.bus.Idle →
    exec (.writeByte (.data d)) s = .next
      { s with
        session.st := .waitInstruction
        bus := { a := busAddr s.session.addr, dlatch := d, dir := .output, we := false, oe := false }
        chip := { s.chip with
          cells := s.chip.cellsAfter (fun m => Memory.write m (busAddr s.session.addr).toNat d)
          busy := false }
        tx := s.tx ++ [0x06#8]
        events := s.events ++
          [.setA (busAddr s.session.addr), .setDir .output, .setD d, .we true, .delay .wp,
            .we false, .delay .dh, .delay .wc, .tx 0x06#8] }

/-- R144 with R134: a WRITE_STREAM's disambiguator, from the idle posture: the whole next state. The NAK is the
spec's decision D4, the address arithmetic D12, the direction event of each programByte D13; that a free
environment's cells stay is the model's choice (log 8). -/
def Obligations.StreamTerminatorResult : Prop :=
  ∀ (s : State) (x : Byte), s.bus.Idle →
    exec (.writeStream (.terminator x)) s = .next
      { s with
        session := { s.session with
          buf := [], ovf := false, cancelSeen := false, st := .waitInstruction }
        bus := busAfterPrograms s.session.addr 0 s.session.buf s.bus
        chip := { s.chip with
          cells := s.chip.cellsAfter (writeCells s.session.addr 0 s.session.buf), busy := false }
        tx := s.tx ++ [if s.session.ovf then 0x15#8 else 0x06#8]
        events := s.events ++ programsTrace s.session.addr 0 s.session.buf ++
          [.delay .wc, .tx (if s.session.ovf then 0x15#8 else 0x06#8)] }

/-- R150 with R131 and R116: a READ_BYTE's low address byte, from the idle posture: the whole next state. The
response is the addressed cell in the reference environment out of the chip's write cycle, and a free draw
otherwise (log 9). -/
def Obligations.ReadByteResult : Prop :=
  ∀ (s : State) (b : Byte) (a : Addr) (v : Byte),
    s.bus.Idle → a = s.session.addr.extractLsb' 8 8 ++ b →
    v = (if s.chip.env = .reference ∧ s.chip.busy = false then s.cell (busAddr a)
      else Config.freeSample s.draws) →
    exec (.readByte (.addrLo b)) s = .next
      { s with
        session.addr := a
        session.st := .waitInstruction
        bus.a := busAddr a
        draws := if s.chip.env = .reference ∧ s.chip.busy = false then s.draws else s.draws + 1
        tx := s.tx ++ [v]
        events := s.events ++
          [.setDir .input, .setA (busAddr a), .oe true, .delay .acc, .sample v, .oe false,
            .setDir .output, .tx v] }

/-- R151 with R130 and R118: a READ_STREAM's last byte, from the idle posture, for start <= end: the whole next
state. The bus sequence is the spec's decision D6. Where no rule determines a sample (a free environment, the chip's
write cycle) it is the model's next free draw, and the counter advances by one for each (log 9). -/
def Obligations.ReadStreamEndResult : Prop :=
  ∀ (s : State) (b : Byte) (a : Addr) (n : Nat),
    s.bus.Idle → a = s.session.addr.extractLsb' 8 8 ++ b → s.session.rsStart ≤ a →
    n = a.toNat - s.session.rsStart.toNat + 1 →
    exec (.readStream (.endLo b)) s = .next
      { s with
        session := { s.session with
          addr := a, rsStart := 0xFFFF#16, rsPending := false, st := .waitInstruction }
        bus.a := busAddr a
        draws := s.drawsAfter n
        tx := s.tx ++ s.samplesFrom 0 s.session.rsStart.toNat n
        events := s.events ++
          rangeTrace s.session.rsStart (s.samplesFrom 0 s.session.rsStart.toNat n) }

/-- R153 with R119, the spec's decision D5: start > end performs nothing and emits nothing, in every posture. -/
def Obligations.ReadStreamEmptyRange : Prop :=
  ∀ (s : State) (b : Byte) (a : Addr),
    a = s.session.addr.extractLsb' 8 8 ++ b → a < s.session.rsStart →
    exec (.readStream (.endLo b)) s = .next
      { s with
        session := { s.session with
          addr := a, rsStart := 0xFFFF#16, rsPending := false, st := .waitInstruction } }

/-- R155, R156, R157: the commands without operands answer one status byte and change nothing else. Their bytes
mean them at WAIT_INSTRUCTION alone: in the address states every byte is an address byte, in a WRITE_BYTE's data
phase every byte is data, and in a WRITE_STREAM's data phase 0xFF is the mark or the escaped byte and every other
byte is data or the disambiguator (R136, R142 to R144, R147). That exec gives the result in every state, not at
WAIT_INSTRUCTION alone, is the model's choice (log 20). -/
def Obligations.StatusCommandsResult : Prop :=
  (∀ s : State, exec .handshake s = .next
    { s with tx := s.tx ++ [0x06#8], events := s.events ++ [.tx 0x06#8] }) ∧
  (∀ s : State, exec .cancel s = .next
    { s with tx := s.tx ++ [0x06#8], events := s.events ++ [.tx 0x06#8] }) ∧
  (∀ (b : Byte) (s : State), exec (.unknown b) s = .next
    { s with tx := s.tx ++ [0x15#8], events := s.events ++ [.tx 0x15#8] }) ∧
  (∀ (c : Context) (b : Byte),
    ((c.st = .waitAddrHigh ∨ c.st = .waitAddrLow) → ∀ i, decode c b = .ok i → isAddrByte i = true) ∧
    (c.st = .waitData → c.instr = 0x01#8 → decode c b = .ok (.writeByte (.data b))) ∧
    (c.st = .waitData → c.instr = 0x02#8 → decode c b = .ok (.writeStream (
      if c.cancelSeen then (if b = 0xFF#8 then .escaped else .terminator b)
      else (if b = 0xFF#8 then .mark else .data b))))) ∧
  ∀ (c : Context) (b : Byte),
    (decode c b = .ok .handshake ↔ c.st = .waitInstruction ∧ b = 0xAA#8) ∧
    (decode c b = .ok .cancel ↔ c.st = .waitInstruction ∧ b = 0xFF#8) ∧
    (decode c b = .ok (.unknown b) ↔ c.st = .waitInstruction ∧
      b ∉ [0x01#8, 0x02#8, 0x03#8, 0x04#8, 0xAA#8, 0xFF#8])

/-! ### Whole frames, byte by byte -/

/-- R140: the four steps of a WRITE_BYTE frame from a launch state. The order of the events is the spec's
decision D13; that a free environment's cells stay is the model's choice (log 8). -/
def Obligations.WriteByteWholeFrame : Prop :=
  ∀ (s : State) (addr : Addr) (d : Byte) (rest : List Byte),
    s.Launch → s.session.st = .waitInstruction →
    s.rx = [0x01#8, addr.extractLsb' 8 8, addr.extractLsb' 0 8, d] ++ rest →
    runSteps 4 s = .next
      { s with
        rx := rest
        session.instr := 0x01#8
        session.addr := addr
        bus := busAfterProgram d addr
        chip := { s.chip with
          cells := s.chip.cellsAfter (fun m => Memory.write m (busAddr addr).toNat d)
          busy := false }
        tx := s.tx ++ [0x06#8]
        events := s.events ++ programTrace d addr ++ [.delay .wc, .tx 0x06#8] }

/-- R141 with R145 and R146: all the steps of a WRITE_STREAM frame from a launch state. The first PAGE_CAP data
bytes are written, one status byte follows (overflow: the spec's decision D4). The addresses are D12's, the direction
event of each programByte D13's; that a free environment's cells stay is the model's choice (log 8). -/
def Obligations.WriteStreamWholeFrame : Prop :=
  ∀ (s : State) (addr : Addr) (ds written : List Byte) (x status : Byte) (rest : List Byte),
    s.Launch → s.session.st = .waitInstruction → x ≠ 0xFF#8 →
    s.rx = (Frame.writeStream addr ds x).bytes ++ rest →
    written = ds.take s.cfg.pageCap →
    status = (if ds.length ≤ s.cfg.pageCap then 0x06#8 else 0x15#8) →
    runSteps (Frame.writeStream addr ds x).bytes.length s = .next
      { s with
        rx := rest
        session.instr := 0x02#8
        session.addr := addr
        bus := busAfterPrograms addr 0 written s.bus
        chip := { s.chip with
          cells := s.chip.cellsAfter (writeCells addr 0 written), busy := false }
        tx := s.tx ++ [status]
        events := s.events ++ programsTrace addr 0 written ++ [.delay .wc, .tx status] }

/-- R150: the three steps of a READ_BYTE frame from a launch state, in every environment. In the reference
environment out of the chip's write cycle the response is the addressed cell; elsewhere it is the model's next free
draw (log 9). The data latch stays by the spec's decision D25. -/
def Obligations.ReadByteWholeFrame : Prop :=
  ∀ (s : State) (addr : Addr) (rest : List Byte) (v : Byte),
    s.Launch → s.session.st = .waitInstruction →
    s.rx = [0x03#8, addr.extractLsb' 8 8, addr.extractLsb' 0 8] ++ rest →
    v = s.sampleAt 0 (busAddr addr) →
    runSteps 3 s = .next
      { s with
        rx := rest
        session.instr := 0x03#8
        session.addr := addr
        bus.a := busAddr addr
        draws := s.drawsAfter 1
        tx := s.tx ++ [v]
        events := s.events ++ readTrace addr v ++ [.tx v] } ∧
    (s.chip.env = .reference → s.chip.busy = false → v = s.cell (busAddr addr))

/-- R151 with R152 and R153: all the steps of a READ_STREAM frame from a launch state, in every environment and
under both values of SENTINEL_ALIAS, the starts that are not retained included. Decisions D2, D5, D6. In the
reference environment out of the chip's write cycle the responses are the cells; elsewhere they are the model's free
draws (log 9). -/
def Obligations.ReadStreamWholeFrame : Prop :=
  ∀ (s : State) (skipped : Nat) (start stop : Addr) (rest vs : List Byte) (n : Nat),
    s.Launch → s.session.st = .waitInstruction →
    (Frame.readStream skipped start stop).wf s.cfg.sentinelAlias = true →
    s.rx = (Frame.readStream skipped start stop).bytes ++ rest →
    n = (if start ≤ stop then stop.toNat - start.toNat + 1 else 0) →
    vs = s.samplesFrom 0 start.toNat n →
    runSteps (Frame.readStream skipped start stop).bytes.length s = .next
      { s with
        rx := rest
        session.instr := 0x04#8
        session.addr := stop
        bus.a := if start ≤ stop then busAddr stop else s.bus.a
        draws := s.drawsAfter n
        tx := s.tx ++ vs
        events := s.events ++ (if start ≤ stop then rangeTrace start vs else []) } ∧
    (s.chip.env = .reference → s.chip.busy = false → vs = s.cellsFrom start.toNat n)

/-- R158: any number of HANDSHAKE, CANCEL and UNKNOWN bytes at WAIT_INSTRUCTION give one status byte each and
change no field of S, no bus line, nothing else. -/
def Obligations.StatusCommandsAreIdempotent : Prop :=
  ∀ (s : State) (bs rest : List Byte),
    s.phase = .run → s.session.st = .waitInstruction → s.rx = bs ++ rest →
    (∀ b ∈ bs, b ∉ [0x01#8, 0x02#8, 0x03#8, 0x04#8]) →
    runSteps bs.length s = .next
      { s with
        rx := rest
        tx := s.tx ++ bs.map statusOf
        events := s.events ++ bs.map (fun b => Event.tx (statusOf b)) }

/-- R24, R126: no state is terminal. From every launch state there are at most four bytes that, delivered behind
those already in Rx, bring the machine to WAIT_INSTRUCTION once all have been taken. -/
def Obligations.FourBytesLeadBack : Prop :=
  ∀ s : State, s.Launch → ∃ bs : List Byte, bs.length ≤ 4 ∧
    ∃ t, runSteps (s.rx.length + bs.length) (s.deliver bs) = .next t ∧ t.rx = [] ∧
      t.session.st = .waitInstruction

/-! ### Frames: what stays -/

/-- No instruction writes a parameter, the phase, an input, the indicator, or the choice of environment. -/
def Obligations.InputsAndParametersStay : Prop :=
  ∀ (i : Instr) (s t : State), exec i s = .next t →
    t.cfg = s.cfg ∧ t.phase = s.phase ∧ t.rx = s.rx ∧ t.conn = s.conn ∧ t.ind = s.ind ∧
    t.chip.env = s.chip.env

/-- R25, R26, R28 to R32: the registers of S stay but for the instructions the spec says write them: S.instr the
opcode bytes; S.addr the address bytes; S.buf, S.cancelSeen and S.ovf the bytes of a stream's data phase;
S.rsStart and S.rsPending the low bytes of a READ_STREAM's addresses; S.st stays for HANDSHAKE, CANCEL and
UNKNOWN. -/
def Obligations.SessionFrame : Prop :=
  ∀ (i : Instr) (s t : State), exec i s = .next t →
    (isOpcode i = false → t.session.instr = s.session.instr) ∧
    (isAddrByte i = false → t.session.addr = s.session.addr) ∧
    (isStreamByte i = false →
      t.session.buf = s.session.buf ∧ t.session.cancelSeen = s.session.cancelSeen ∧
      t.session.ovf = s.session.ovf) ∧
    (isRangeLow i = false →
      t.session.rsStart = s.session.rsStart ∧ t.session.rsPending = s.session.rsPending) ∧
    (isOpcode i = false → isAddrByte i = false → isStreamByte i = false →
      (∀ d, i ≠ .writeByte (.data d)) → t.session.st = s.session.st)

/-- The bus lines, the chip, the fault record and the draws stay for every instruction that performs no EEPROM
Operation, and so does every byte of memory. -/
def Obligations.NoOperationMovesNoLine : Prop :=
  ∀ (i : Instr) (s t : State), exec i s = .next t → operates i = false →
    t.bus = s.bus ∧ t.chip = s.chip ∧ t.faults = s.faults ∧ t.draws = s.draws ∧
    ∀ x : BusAddr, t.cell x = s.cell x

/-- The store frame of WRITE_BYTE's data byte, in every posture: every cell but the one that bus(S.addr) names
reads as before, nothing of S but S.st changes, one byte is emitted and no draw is made. -/
def Obligations.WriteByteStoreFrame : Prop :=
  ∀ (s t : State) (d : Byte), s.chip.cells.wf → exec (.writeByte (.data d)) s = .next t →
    (∀ x : BusAddr, x ≠ busAddr s.session.addr → t.cell x = s.cell x) ∧
    t.session = { s.session with st := .waitInstruction } ∧ t.tx = s.tx ++ [0x06#8] ∧
    t.draws = s.draws

/-- The store frame of a flush, in every posture: every cell but the ones that the buffer's bytes go to reads as
before, and of S only the fields R134 and R144 name change. -/
def Obligations.StreamStoreFrame : Prop :=
  ∀ (s t : State) (x : Byte), s.chip.cells.wf → exec (.writeStream (.terminator x)) s = .next t →
    (∀ y : BusAddr,
      (∀ i, i < s.session.len → y ≠ busAddr (s.session.addr + BitVec.ofNat 16 i)) →
      t.cell y = s.cell y) ∧
    t.session = { s.session with
      buf := [], ovf := false, cancelSeen := false, st := .waitInstruction } ∧
    t.draws = s.draws

/-- The frame of the two reading instructions, in every posture: no cell changes and the chip stays as it is, the
data latch stays (R35, the spec's decision D25), and of S only the fields their rules name change. -/
def Obligations.ReadFormsFrame : Prop :=
  ∀ (s t : State) (b : Byte),
    (exec (.readByte (.addrLo b)) s = .next t →
      t.session = { s.session with
        addr := s.session.addr.extractLsb' 8 8 ++ b, st := .waitInstruction }) ∧
    (exec (.readStream (.endLo b)) s = .next t →
      t.session = { s.session with
        addr := s.session.addr.extractLsb' 8 8 ++ b, rsStart := 0xFFFF#16, rsPending := false,
        st := .waitInstruction }) ∧
    (exec (.readByte (.addrLo b)) s = .next t ∨ exec (.readStream (.endLo b)) s = .next t →
      t.chip = s.chip ∧ t.bus.dlatch = s.bus.dlatch ∧ t.bus.we = s.bus.we ∧
      ∀ x : BusAddr, t.cell x = s.cell x)

/-- R17, R63, R67: a step only appends to the event list, and to Tx exactly the bytes of the Tx events it appends.
The events are a whole record of what the step did outside S: doing them again, on the state without what the step
took from Rx and CONN, gives the step's bus, chip, indicator, faults, draws, Tx and event list. A reset within the
step rests on this (log 16). -/
def Obligations.EventsAreOnlyAppended : Prop :=
  ∀ s t : State, step s = .next t →
    ∃ es : List Event, t.events = s.events ++ es ∧ t.tx = s.tx ++ txBytes es ∧
      ∀ u : State, u = performAll es { s with rx := t.rx, conn := t.conn } →
        u.bus = t.bus ∧ u.chip = t.chip ∧ u.ind = t.ind ∧ u.faults = t.faults ∧ u.draws = t.draws ∧
        u.tx = t.tx ∧ u.events = t.events

/-- R107: a recorded fault is never cleared. -/
def Obligations.FaultsAreNeverCleared : Prop :=
  ∀ s t : State, step s = .next t →
    (s.faults.busMisuse = true → t.faults.busMisuse = true) ∧
    (s.faults.busContention = true → t.faults.busContention = true) ∧
    (s.faults.busWeOe = true → t.faults.busWeOe = true)

/-! ### The bus driver -/

/-- R96 to R98, R100 to R102 with R58 to R60 (the spec's decision D16), in every posture: each primitive writes its
own field, records its own event, and changes nothing else of the machine but the fault record (PrimitiveFaults). A
write pulse's end in the reference environment begins the chip's write cycle, in every posture (log 10's bit), and with
the lines driven and output-enable off writes the latch to the addressed cell; that no cell changes in another posture
is log 11's reading, that a free environment's chip stays log 8's choice. A sample is the addressed cell in the reference environment, in the read posture, out of the write cycle; any other is the
model's next free draw (log 9). -/
def Obligations.PrimitivesWriteTheirField : Prop :=
  ∀ (s : State) (a : Addr) (d : Dir) (v : Byte) (x : Bool),
    setAddress a s = { s with
      bus.a := a.setWidth 15, events := s.events ++ [.setA (a.setWidth 15)]
      faults := (setAddress a s).faults } ∧
    setDataDirection d s = { s with
      bus.dir := d, events := s.events ++ [.setDir d], faults := (setDataDirection d s).faults } ∧
    setDataOut v s = { s with
      bus.dlatch := v, events := s.events ++ [.setD v], faults := (setDataOut v s).faults } ∧
    setWriteEnable x s = { s with
      bus.we := x, events := s.events ++ [.we x], faults := (setWriteEnable x s).faults
      chip := if s.bus.we = true ∧ x = false ∧ s.chip.env = .reference then
        { s.chip with
          cells := if s.bus.dir = .output ∧ s.bus.oe = false then
            Memory.write s.chip.cells s.bus.a.toNat s.bus.dlatch else s.chip.cells
          busy := true }
        else s.chip } ∧
    setOutputEnable x s = { s with
      bus.oe := x, events := s.events ++ [.oe x], faults := (setOutputEnable x s).faults } ∧
    ((s.chip.env = .reference ∧ s.bus.dir = .input ∧ s.bus.oe = true ∧ s.bus.we = false ∧
        s.chip.busy = false) →
      readDataIn s = (s.cell s.bus.a, { s with
        events := s.events ++ [.sample (s.cell s.bus.a)], faults := (readDataIn s).2.faults })) ∧
    (¬ (s.chip.env = .reference ∧ s.bus.dir = .input ∧ s.bus.oe = true ∧ s.bus.we = false ∧
        s.chip.busy = false) →
      readDataIn s = (Config.freeSample s.draws, { s with
        draws := s.draws + 1, events := s.events ++ [.sample (Config.freeSample s.draws)]
        faults := (readDataIn s).2.faults }))

/-- R103: no primitive other than setDataDirection changes Bus.DIR, and setDataOut and readDataIn want opposite
directions: each records BUS_MISUSE in the other's. -/
def Obligations.DirectionIsExplicit : Prop :=
  ∀ (s : State) (a : Addr) (v : Byte) (x : Bool),
    (setAddress a s).bus.dir = s.bus.dir ∧ (setDataOut v s).bus.dir = s.bus.dir ∧
    (setWriteEnable x s).bus.dir = s.bus.dir ∧ (setOutputEnable x s).bus.dir = s.bus.dir ∧
    (readDataIn s).2.bus.dir = s.bus.dir ∧
    (s.bus.dir = .input → (setDataOut v s).faults.busMisuse = true) ∧
    (s.bus.dir = .output → (readDataIn s).2.faults.busMisuse = true)

/-- R98, R100 to R102, R105 to R107, the spec's decision D18: which faults each primitive records, in every
posture; every one whose condition holds is recorded (log 12). -/
def Obligations.PrimitiveFaults : Prop :=
  ∀ (s t : State) (misuse : Bool) (a : Addr) (d : Dir) (v : Byte) (x : Bool),
    (t = setAddress a s ∧ misuse = false) ∨
    (t = setDataDirection d s ∧ misuse = false) ∨
    (t = setDataOut v s ∧ misuse = (s.bus.dir == .input)) ∨
    (t = setWriteEnable x s ∧ misuse = (x && s.bus.dir == .input)) ∨
    (t = setOutputEnable x s ∧ misuse = false) ∨
    (t = (readDataIn s).2 ∧ misuse = (s.bus.dir == .output)) →
    t.faults =
      { busMisuse := s.faults.busMisuse || misuse
        busContention := s.faults.busContention || (t.bus.dir == .output && t.bus.oe)
        busWeOe := s.faults.busWeOe || (t.bus.we && t.bus.oe) }

/-- R39, R37, R38, R99: the pins at every bus state, active low; D0..D7 are undriven with DIR = IN. Each logical
line has a physical line of its own (R15). -/
def Obligations.PinRelation : Prop :=
  (∀ b : Bus, b.pins.addr = b.a ∧ b.pins.weN = !b.we ∧ b.pins.oeN = !b.oe ∧
    (b.dir = .output → b.pins.data = some b.dlatch) ∧ (b.dir = .input → b.pins.data = none)) ∧
  ∀ (m : LineMap) (p : Pins), ((physicalLevels m p).map Prod.fst).Nodup

/-! ### The sequencer and the memory -/

/-- R114, R115: programByte, in every posture, asserts no output-enable and waits out no write cycle. That the chip
is then left in its internal write cycle, in the reference environment, rests on R60 (the spec's decision D16) and on
the model's busy bit (log 10). -/
def Obligations.ProgramByteNeitherReadsNorWaits : Prop :=
  ∀ (s : State) (d : Byte) (a : Addr),
    (∃ es, (programByte d a s).events = s.events ++ es ∧ Event.delay .wc ∉ es ∧
      ∀ x, Event.oe x ∉ es) ∧
    (programByte d a s).bus.oe = s.bus.oe ∧
    (s.chip.env = .reference → (programByte d a s).chip.busy = true)

/-- R122: every EEPROM Operation, the flush included, starts in the idle posture, ends in it and raises no fault. -/
def Obligations.OperationsKeepTheIdlePosture : Prop :=
  ∀ (s t : State) (d : Byte) (a b : Addr), s.bus.Idle →
    t = programByte d a s ∨ t = (readByte a s).2 ∨ t = readRange a b s ∨ t = flush s →
    t.bus.Idle ∧ t.faults = s.faults

/-- R123, R61: in the reference environment, readByte(a) after programByte(d, a) and awaitWriteCycle returns d. -/
def Obligations.ProgramThenReadRoundTrip : Prop :=
  ∀ (s : State) (a : Addr) (d : Byte),
    s.bus.Idle → s.chip.env = .reference → s.chip.cells.wf →
    (readByte a (awaitWriteCycle (programByte d a s))).1 = d

/-- R60: without the wait the sample is a free draw, whatever the draws made so far (log 9). This holds after
programByte and after the end of any write pulse, whatever the posture it ended in. -/
def Obligations.ReadInTheWriteCycleIsFree : Prop :=
  (∀ (s : State) (a : Addr) (d : Byte), s.bus.Idle → s.chip.env = .reference →
    (readByte a (programByte d a s)).1 = Config.freeSample s.draws ∧
    (readByte a (programByte d a s)).2.draws = s.draws + 1) ∧
  ∀ (s : State) (a : Addr), s.bus.we = true → s.chip.env = .reference →
    (readByte a (setWriteEnable false s)).1 = Config.freeSample s.draws ∧
    (readByte a (setWriteEnable false s)).2.draws = s.draws + 1

/-- R121: for start <= end, readRange emits exactly end - start + 1 bytes, in ascending order, each equal to what
readByte would return for that address. -/
def Obligations.ReadRangeCountAndOrder : Prop :=
  ∀ (s : State) (start stop : Addr),
    s.bus.Idle → s.chip.env = .reference → s.chip.busy = false → start ≤ stop →
    ∃ vs : List Byte, (readRange start stop s).tx = s.tx ++ vs ∧
      vs.length = stop.toNat - start.toNat + 1 ∧
      ∀ (i : Nat) (h : i < vs.length),
        vs[i] = (readByte (BitVec.ofNat 16 (start.toNat + i)) s).1

/-- R51: a wire address is dropped to its low 15 bits, and a and a + 0x8000 are one cell to every operation, in
every posture. -/
def Obligations.AliasedAddressesAreOneCell : Prop :=
  ∀ (s : State) (a : Addr) (d : Byte),
    (busAddr a).toNat = a.toNat % 2 ^ 15 ∧ busAddr (a + 0x8000#16) = busAddr a ∧
    programByte d (a + 0x8000#16) s = programByte d a s ∧
    readByte (a + 0x8000#16) s = readByte a s

/-- R200: a range within 0x8000..0xFFFF and the range reduced by 0x8000 are the same operation. -/
def Obligations.HighRangesReduce : Prop :=
  ∀ (s : State) (start stop : Addr), 0x8000#16 ≤ start → 0x8000#16 ≤ stop →
    readRange (start - 0x8000#16) (stop - 0x8000#16) s = readRange start stop s

/-- R134, R68: in the reference environment a flush of at most 32768 bytes leaves the byte at buffer index i in the
cell of (S.addr + i) mod 2^16. A device reset within the flush (R190, R59), once it has recorded k events, leaves
written the bytes whose write pulse has begun, since the reset ends the pulse it finds (log 23): seven events a byte,
the pulse with the fourth. -/
def Obligations.FlushedBytesLand : Prop :=
  (∀ (s t : State) (x : Byte),
    s.bus.Idle → s.chip.env = .reference → s.chip.cells.wf → s.session.len ≤ 32768 →
    exec (.writeStream (.terminator x)) s = .next t →
    ∀ (i : Nat) (h : i < s.session.len),
      t.cell (busAddr (s.session.addr + BitVec.ofNat 16 i)) = s.session.buf[i]) ∧
  ∀ (s : State) (x : Byte) (rest held : List Byte) (k : Nat),
    s.phase = .run → s.session.st = .waitData → s.session.instr = 0x02#8 →
    s.session.cancelSeen = true → x ≠ 0xFF#8 → s.rx = x :: rest →
    s.bus.Idle → s.chip.env = .reference →
    (s.resetDuring k held).chip.cells =
      writeCells s.session.addr 0 (s.session.buf.take ((k + 3) / 7)) s.chip.cells

/-! ### Invariants and whole-machine rules -/

/-- The invariant holds right after reset, and the chip is in no write cycle. The fields R49 gives are the spec's;
the chip's (logs 7, 8, 10) and the empty event list, no cell and no fault (log 15) are the model's choices. -/
def Obligations.InvariantAtReset : Prop := State.reset.Inv ∧ State.reset.Settled

/-- R45, R46, R47, R60, R107 and the canonical form of the cells: every step keeps the invariant, and with it that the
chip is in no write cycle between steps. -/
def Obligations.StepKeepsTheInvariant : Prop :=
  ∀ s t : State, s.Inv → step s = .next t → t.Inv ∧ (s.Settled → t.Settled)

/-- R22: the gate is passed once: no number of steps leads from RUN back to GATED. -/
def Obligations.NeverGatedAgain : Prop :=
  ∀ (k : Nat) (s t : State), s.phase = .run → runSteps k s = .next t → t.phase = .run

/-- R25, R136: S.instr is written only by a byte of {0x01, 0x02, 0x03, 0x04} taken at WAIT_INSTRUCTION, and then
holds that byte. -/
def Obligations.InstrWrittenOnlyByCommands : Prop :=
  ∀ s t : State, step s = .next t → t.session.instr ≠ s.session.instr →
    s.phase = .run ∧ s.session.st = .waitInstruction ∧
    ∃ b rest, s.rx = b :: rest ∧ b ∈ [0x01#8, 0x02#8, 0x03#8, 0x04#8] ∧ t.session.instr = b

/-- R65: what the chip holds never changes how a byte is interpreted. Two machines that differ only in the chip, the
bus lines, the faults, the draws and the values of the responses stay alike for any number of steps. -/
def Obligations.ChipNeverSteersTheProtocol : Prop :=
  ∀ (k : Nat) (s t : State), AlikeButForTheChip s t →
    ∃ s' t', runSteps k s = .next s' ∧ runSteps k t = .next t' ∧ AlikeButForTheChip s' t'

/-- R207: from the idle posture, the status of WRITE_BYTE and of WRITE_STREAM comes after at least WP + DH for each
byte programmed and one WC. -/
def Obligations.WriteLatency : Prop :=
  ∀ (s : State) (b : Byte), s.bus.Idle →
    (∃ t es, exec (.writeByte (.data b)) s = .next t ∧ stepEvents s t = es ++ [.tx 0x06#8] ∧
      (DelayKind.wp.minNanos + DelayKind.dh.minNanos) + DelayKind.wc.minNanos ≤ minNanosOf es) ∧
    ∃ t es r, exec (.writeStream (.terminator b)) s = .next t ∧ stepEvents s t = es ++ [.tx r] ∧
      s.session.len * (DelayKind.wp.minNanos + DelayKind.dh.minNanos) + DelayKind.wc.minNanos ≤
        minNanosOf es

/-- R207: from the idle posture, byte k of a read, counted from 0, comes after at least k + 1 times ACC. -/
def Obligations.ReadLatency : Prop :=
  ∀ (s t : State) (b : Byte), s.bus.Idle →
    exec (.readByte (.addrLo b)) s = .next t ∨ exec (.readStream (.endLo b)) s = .next t →
    ∀ (pre post : List Event) (v : Byte), stepEvents s t = pre ++ [.tx v] ++ post →
      ((txBytes pre).length + 1) * DelayKind.acc.minNanos ≤ minNanosOf pre

/-! ### Gate and reset -/

/-- R184, R185, R137, the spec's decision D9: one poll of the gate. That a poll observing no connection records
exactly one half-period, and that there is no connection with no level left to observe, is the model's choice
(log 13): R184 gives the polls no rate. -/
def Obligations.GatePoll : Prop :=
  ∀ (s : State) (levels : List Bool), s.phase = .gated →
    (s.conn = true :: levels → step s = .next { s with conn := levels, phase := .run }) ∧
    (s.conn = false :: levels ∨ (s.conn = [] ∧ levels = []) → step s = .next
      { s with
        conn := levels
        ind := !s.ind
        events := s.events ++ [.delay .blink, .ind (!s.ind)] })

/-- R184, R185: after n polls without a connection and one with it the core is in the RUN phase, the indicator has
toggled n times, and no byte was taken or emitted. One poll for each half-period is the model's choice (log 13): R184
gives the polls no rate. -/
def Obligations.GatePassesAtTheFirstConnection : Prop :=
  ∀ (s : State) (n : Nat) (levels : List Bool),
    s.phase = .gated → s.conn = List.replicate n false ++ true :: levels →
    ∃ t, runSteps (n + 1) s = .next t ∧ t.phase = .run ∧ t.conn = levels ∧
      t.session = s.session ∧ t.bus = s.bus ∧ t.rx = s.rx ∧ t.tx = s.tx ∧
      t.ind = (if n % 2 = 0 then s.ind else !s.ind) ∧ (stepEvents s t).length = 2 * n

/-- R49: the values the core's fields have at reset (the spec's decisions D7, D8, D9, D11). -/
def Obligations.ResetValues : Prop :=
  State.reset.phase = .gated ∧ State.reset.session.st = .waitInstruction ∧
  State.reset.session.instr = 0x00#8 ∧ State.reset.session.addr = 0x0000#16 ∧
  State.reset.session.len = 0 ∧ State.reset.session.rsStart = 0xFFFF#16 ∧
  State.reset.session.rsPending = false ∧ State.reset.session.cancelSeen = false ∧
  State.reset.session.ovf = false ∧ State.reset.bus.dir = .output ∧ State.reset.bus.we = false ∧
  State.reset.bus.oe = false ∧ State.reset.bus.a = 0x0000#15 ∧ State.reset.bus.dlatch = 0x00#8 ∧
  State.reset.ind = false ∧ State.reset.tx = []

/-- R179, R190 to R193: a device reset, between two steps or within one, gives every field of the core its reset value
and keeps the invariant, from every state; Rx holds what the transport leaves in it, the parameters and CONN's further
levels stay. Between steps it leaves the fault record, and the chip but for a write pulse it finds asserted, which
it ends (R59, R60, R191; log 23). Within a step what has happened so far is the step's first k events, after which the
reset is one between steps (log 16). -/
def Obligations.DeviceResetRestoresTheCore : Prop :=
  (∀ (s r : State) (k : Nat) (held : List Byte),
    r = s.deviceReset held ∨ r = s.resetDuring k held →
    r.phase = State.reset.phase ∧ r.session = State.reset.session ∧ r.bus = State.reset.bus ∧
    r.ind = State.reset.ind ∧ r.tx = State.reset.tx ∧ r.rx = held ∧ r.cfg = s.cfg ∧
    r.chip.env = s.chip.env ∧ (s.Inv → r.Inv)) ∧
  (∀ (s : State) (held : List Byte),
    (s.deviceReset held).faults = s.faults ∧ (s.deviceReset held).conn = s.conn ∧
    (s.deviceReset held).chip =
      if s.bus.we = true ∧ s.chip.env = .reference then
        { s.chip with
          cells := if s.bus.dir = .output ∧ s.bus.oe = false then
            Memory.write s.chip.cells s.bus.a.toNat s.bus.dlatch else s.chip.cells
          busy := true }
      else s.chip) ∧
  ∀ (s t u : State) (k : Nat) (held : List Byte), step s = .next t →
    u = performAll ((stepEvents s t).take k) { s with rx := t.rx, conn := t.conn } →
    (s.resetDuring k held).chip = (u.deviceReset held).chip ∧
    (s.resetDuring k held).faults = u.faults ∧ (s.resetDuring k held).draws = u.draws ∧
    ((stepEvents s t).length ≤ k → u.chip = t.chip ∧ u.faults = t.faults ∧ u.bus = t.bus)
end

