-- ==== Sys2Proof/Laws/State.lean ====
section
/-! SUPPORT. One lemma for each field and each shared update of Machine/Ops.lean and Machine/Flags.lean. -/

namespace Sys2Proof.Machine

variable (s : State)


@[simp] theorem record_cfg (e : Event) :
    (record e s).cfg = s.cfg := rfl
@[simp] theorem record_phase (e : Event) :
    (record e s).phase = s.phase := rfl
@[simp] theorem record_session (e : Event) :
    (record e s).session = s.session := rfl
@[simp] theorem record_bus (e : Event) :
    (record e s).bus = s.bus := rfl
@[simp] theorem record_ind (e : Event) :
    (record e s).ind = s.ind := rfl
@[simp] theorem record_rx (e : Event) :
    (record e s).rx = s.rx := rfl
@[simp] theorem record_tx (e : Event) :
    (record e s).tx = s.tx := rfl
@[simp] theorem record_conn (e : Event) :
    (record e s).conn = s.conn := rfl
@[simp] theorem record_chip (e : Event) :
    (record e s).chip = s.chip := rfl
@[simp] theorem record_draws (e : Event) :
    (record e s).draws = s.draws := rfl
@[simp] theorem record_faults (e : Event) :
    (record e s).faults = s.faults := rfl
@[simp] theorem record_events (e : Event) :
    (record e s).events = s.events ++ [e] := rfl

@[simp] theorem respond_cfg (b : Byte) :
    (respond b s).cfg = s.cfg := rfl
@[simp] theorem respond_phase (b : Byte) :
    (respond b s).phase = s.phase := rfl
@[simp] theorem respond_session (b : Byte) :
    (respond b s).session = s.session := rfl
@[simp] theorem respond_bus (b : Byte) :
    (respond b s).bus = s.bus := rfl
@[simp] theorem respond_ind (b : Byte) :
    (respond b s).ind = s.ind := rfl
@[simp] theorem respond_rx (b : Byte) :
    (respond b s).rx = s.rx := rfl
@[simp] theorem respond_tx (b : Byte) :
    (respond b s).tx = s.tx ++ [b] := rfl
@[simp] theorem respond_conn (b : Byte) :
    (respond b s).conn = s.conn := rfl
@[simp] theorem respond_chip (b : Byte) :
    (respond b s).chip = s.chip := rfl
@[simp] theorem respond_draws (b : Byte) :
    (respond b s).draws = s.draws := rfl
@[simp] theorem respond_faults (b : Byte) :
    (respond b s).faults = s.faults := rfl
@[simp] theorem respond_events (b : Byte) :
    (respond b s).events = s.events ++ [.tx b] := rfl

@[simp] theorem faultIf_cfg (c : Bool) (f : Fault) :
    (faultIf c f s).cfg = s.cfg := by
  unfold faultIf; split <;> simp_all
@[simp] theorem faultIf_phase (c : Bool) (f : Fault) :
    (faultIf c f s).phase = s.phase := by
  unfold faultIf; split <;> simp_all
@[simp] theorem faultIf_session (c : Bool) (f : Fault) :
    (faultIf c f s).session = s.session := by
  unfold faultIf; split <;> simp_all
@[simp] theorem faultIf_bus (c : Bool) (f : Fault) :
    (faultIf c f s).bus = s.bus := by
  unfold faultIf; split <;> simp_all
@[simp] theorem faultIf_ind (c : Bool) (f : Fault) :
    (faultIf c f s).ind = s.ind := by
  unfold faultIf; split <;> simp_all
@[simp] theorem faultIf_rx (c : Bool) (f : Fault) :
    (faultIf c f s).rx = s.rx := by
  unfold faultIf; split <;> simp_all
@[simp] theorem faultIf_tx (c : Bool) (f : Fault) :
    (faultIf c f s).tx = s.tx := by
  unfold faultIf; split <;> simp_all
@[simp] theorem faultIf_conn (c : Bool) (f : Fault) :
    (faultIf c f s).conn = s.conn := by
  unfold faultIf; split <;> simp_all
@[simp] theorem faultIf_chip (c : Bool) (f : Fault) :
    (faultIf c f s).chip = s.chip := by
  unfold faultIf; split <;> simp_all
@[simp] theorem faultIf_draws (c : Bool) (f : Fault) :
    (faultIf c f s).draws = s.draws := by
  unfold faultIf; split <;> simp_all
@[simp] theorem faultIf_faults (c : Bool) (f : Fault) :
    (faultIf c f s).faults = if c then s.faults.add f else s.faults := by
  unfold faultIf; split <;> simp_all
@[simp] theorem faultIf_events (c : Bool) (f : Fault) :
    (faultIf c f s).events = s.events := by
  unfold faultIf; split <;> simp_all

@[simp] theorem enter_cfg (st : ProtoState) :
    (enter st s).cfg = s.cfg := rfl
@[simp] theorem enter_phase (st : ProtoState) :
    (enter st s).phase = s.phase := rfl
@[simp] theorem enter_st (st : ProtoState) :
    (enter st s).session.st = st := rfl
@[simp] theorem enter_instr (st : ProtoState) :
    (enter st s).session.instr = s.session.instr := rfl
@[simp] theorem enter_addr (st : ProtoState) :
    (enter st s).session.addr = s.session.addr := rfl
@[simp] theorem enter_buf (st : ProtoState) :
    (enter st s).session.buf = s.session.buf := rfl
@[simp] theorem enter_rsStart (st : ProtoState) :
    (enter st s).session.rsStart = s.session.rsStart := rfl
@[simp] theorem enter_rsPending (st : ProtoState) :
    (enter st s).session.rsPending = s.session.rsPending := rfl
@[simp] theorem enter_cancelSeen (st : ProtoState) :
    (enter st s).session.cancelSeen = s.session.cancelSeen := rfl
@[simp] theorem enter_ovf (st : ProtoState) :
    (enter st s).session.ovf = s.session.ovf := rfl
@[simp] theorem enter_bus (st : ProtoState) :
    (enter st s).bus = s.bus := rfl
@[simp] theorem enter_ind (st : ProtoState) :
    (enter st s).ind = s.ind := rfl
@[simp] theorem enter_rx (st : ProtoState) :
    (enter st s).rx = s.rx := rfl
@[simp] theorem enter_tx (st : ProtoState) :
    (enter st s).tx = s.tx := rfl
@[simp] theorem enter_conn (st : ProtoState) :
    (enter st s).conn = s.conn := rfl
@[simp] theorem enter_chip (st : ProtoState) :
    (enter st s).chip = s.chip := rfl
@[simp] theorem enter_draws (st : ProtoState) :
    (enter st s).draws = s.draws := rfl
@[simp] theorem enter_faults (st : ProtoState) :
    (enter st s).faults = s.faults := rfl
@[simp] theorem enter_events (st : ProtoState) :
    (enter st s).events = s.events := rfl

@[simp] theorem beginFrame_cfg (op : Byte) :
    (beginFrame op s).cfg = s.cfg := rfl
@[simp] theorem beginFrame_phase (op : Byte) :
    (beginFrame op s).phase = s.phase := rfl
@[simp] theorem beginFrame_st (op : Byte) :
    (beginFrame op s).session.st = .waitAddrHigh := rfl
@[simp] theorem beginFrame_instr (op : Byte) :
    (beginFrame op s).session.instr = op := rfl
@[simp] theorem beginFrame_addr (op : Byte) :
    (beginFrame op s).session.addr = s.session.addr := rfl
@[simp] theorem beginFrame_buf (op : Byte) :
    (beginFrame op s).session.buf = s.session.buf := rfl
@[simp] theorem beginFrame_rsStart (op : Byte) :
    (beginFrame op s).session.rsStart = s.session.rsStart := rfl
@[simp] theorem beginFrame_rsPending (op : Byte) :
    (beginFrame op s).session.rsPending = s.session.rsPending := rfl
@[simp] theorem beginFrame_cancelSeen (op : Byte) :
    (beginFrame op s).session.cancelSeen = s.session.cancelSeen := rfl
@[simp] theorem beginFrame_ovf (op : Byte) :
    (beginFrame op s).session.ovf = s.session.ovf := rfl
@[simp] theorem beginFrame_bus (op : Byte) :
    (beginFrame op s).bus = s.bus := rfl
@[simp] theorem beginFrame_ind (op : Byte) :
    (beginFrame op s).ind = s.ind := rfl
@[simp] theorem beginFrame_rx (op : Byte) :
    (beginFrame op s).rx = s.rx := rfl
@[simp] theorem beginFrame_tx (op : Byte) :
    (beginFrame op s).tx = s.tx := rfl
@[simp] theorem beginFrame_conn (op : Byte) :
    (beginFrame op s).conn = s.conn := rfl
@[simp] theorem beginFrame_chip (op : Byte) :
    (beginFrame op s).chip = s.chip := rfl
@[simp] theorem beginFrame_draws (op : Byte) :
    (beginFrame op s).draws = s.draws := rfl
@[simp] theorem beginFrame_faults (op : Byte) :
    (beginFrame op s).faults = s.faults := rfl
@[simp] theorem beginFrame_events (op : Byte) :
    (beginFrame op s).events = s.events := rfl

@[simp] theorem takeAddrHigh_cfg (b : Byte) :
    (takeAddrHigh b s).cfg = s.cfg := rfl
@[simp] theorem takeAddrHigh_phase (b : Byte) :
    (takeAddrHigh b s).phase = s.phase := rfl
@[simp] theorem takeAddrHigh_st (b : Byte) :
    (takeAddrHigh b s).session.st = .waitAddrLow := rfl
@[simp] theorem takeAddrHigh_instr (b : Byte) :
    (takeAddrHigh b s).session.instr = s.session.instr := rfl
@[simp] theorem takeAddrHigh_addr (b : Byte) :
    (takeAddrHigh b s).session.addr = addrFromHigh b := rfl
@[simp] theorem takeAddrHigh_buf (b : Byte) :
    (takeAddrHigh b s).session.buf = s.session.buf := rfl
@[simp] theorem takeAddrHigh_rsStart (b : Byte) :
    (takeAddrHigh b s).session.rsStart = s.session.rsStart := rfl
@[simp] theorem takeAddrHigh_rsPending (b : Byte) :
    (takeAddrHigh b s).session.rsPending = s.session.rsPending := rfl
@[simp] theorem takeAddrHigh_cancelSeen (b : Byte) :
    (takeAddrHigh b s).session.cancelSeen = s.session.cancelSeen := rfl
@[simp] theorem takeAddrHigh_ovf (b : Byte) :
    (takeAddrHigh b s).session.ovf = s.session.ovf := rfl
@[simp] theorem takeAddrHigh_bus (b : Byte) :
    (takeAddrHigh b s).bus = s.bus := rfl
@[simp] theorem takeAddrHigh_ind (b : Byte) :
    (takeAddrHigh b s).ind = s.ind := rfl
@[simp] theorem takeAddrHigh_rx (b : Byte) :
    (takeAddrHigh b s).rx = s.rx := rfl
@[simp] theorem takeAddrHigh_tx (b : Byte) :
    (takeAddrHigh b s).tx = s.tx := rfl
@[simp] theorem takeAddrHigh_conn (b : Byte) :
    (takeAddrHigh b s).conn = s.conn := rfl
@[simp] theorem takeAddrHigh_chip (b : Byte) :
    (takeAddrHigh b s).chip = s.chip := rfl
@[simp] theorem takeAddrHigh_draws (b : Byte) :
    (takeAddrHigh b s).draws = s.draws := rfl
@[simp] theorem takeAddrHigh_faults (b : Byte) :
    (takeAddrHigh b s).faults = s.faults := rfl
@[simp] theorem takeAddrHigh_events (b : Byte) :
    (takeAddrHigh b s).events = s.events := rfl

@[simp] theorem takeAddrLow_cfg (b : Byte) :
    (takeAddrLow b s).cfg = s.cfg := rfl
@[simp] theorem takeAddrLow_phase (b : Byte) :
    (takeAddrLow b s).phase = s.phase := rfl
@[simp] theorem takeAddrLow_st (b : Byte) :
    (takeAddrLow b s).session.st = s.session.st := rfl
@[simp] theorem takeAddrLow_instr (b : Byte) :
    (takeAddrLow b s).session.instr = s.session.instr := rfl
@[simp] theorem takeAddrLow_addr (b : Byte) :
    (takeAddrLow b s).session.addr = addrWithLow s.session.addr b := rfl
@[simp] theorem takeAddrLow_buf (b : Byte) :
    (takeAddrLow b s).session.buf = s.session.buf := rfl
@[simp] theorem takeAddrLow_rsStart (b : Byte) :
    (takeAddrLow b s).session.rsStart = s.session.rsStart := rfl
@[simp] theorem takeAddrLow_rsPending (b : Byte) :
    (takeAddrLow b s).session.rsPending = s.session.rsPending := rfl
@[simp] theorem takeAddrLow_cancelSeen (b : Byte) :
    (takeAddrLow b s).session.cancelSeen = s.session.cancelSeen := rfl
@[simp] theorem takeAddrLow_ovf (b : Byte) :
    (takeAddrLow b s).session.ovf = s.session.ovf := rfl
@[simp] theorem takeAddrLow_bus (b : Byte) :
    (takeAddrLow b s).bus = s.bus := rfl
@[simp] theorem takeAddrLow_ind (b : Byte) :
    (takeAddrLow b s).ind = s.ind := rfl
@[simp] theorem takeAddrLow_rx (b : Byte) :
    (takeAddrLow b s).rx = s.rx := rfl
@[simp] theorem takeAddrLow_tx (b : Byte) :
    (takeAddrLow b s).tx = s.tx := rfl
@[simp] theorem takeAddrLow_conn (b : Byte) :
    (takeAddrLow b s).conn = s.conn := rfl
@[simp] theorem takeAddrLow_chip (b : Byte) :
    (takeAddrLow b s).chip = s.chip := rfl
@[simp] theorem takeAddrLow_draws (b : Byte) :
    (takeAddrLow b s).draws = s.draws := rfl
@[simp] theorem takeAddrLow_faults (b : Byte) :
    (takeAddrLow b s).faults = s.faults := rfl
@[simp] theorem takeAddrLow_events (b : Byte) :
    (takeAddrLow b s).events = s.events := rfl

@[simp] theorem storeRangeStart_cfg :
    (storeRangeStart s).cfg = s.cfg := rfl
@[simp] theorem storeRangeStart_phase :
    (storeRangeStart s).phase = s.phase := rfl
@[simp] theorem storeRangeStart_st :
    (storeRangeStart s).session.st = s.session.st := rfl
@[simp] theorem storeRangeStart_instr :
    (storeRangeStart s).session.instr = s.session.instr := rfl
@[simp] theorem storeRangeStart_addr :
    (storeRangeStart s).session.addr = s.session.addr := rfl
@[simp] theorem storeRangeStart_buf :
    (storeRangeStart s).session.buf = s.session.buf := rfl
@[simp] theorem storeRangeStart_rsStart :
    (storeRangeStart s).session.rsStart = s.session.addr := rfl
@[simp] theorem storeRangeStart_rsPending :
    (storeRangeStart s).session.rsPending = pendingAfterStore s.cfg.sentinelAlias s.session.addr := rfl
@[simp] theorem storeRangeStart_cancelSeen :
    (storeRangeStart s).session.cancelSeen = s.session.cancelSeen := rfl
@[simp] theorem storeRangeStart_ovf :
    (storeRangeStart s).session.ovf = s.session.ovf := rfl
@[simp] theorem storeRangeStart_bus :
    (storeRangeStart s).bus = s.bus := rfl
@[simp] theorem storeRangeStart_ind :
    (storeRangeStart s).ind = s.ind := rfl
@[simp] theorem storeRangeStart_rx :
    (storeRangeStart s).rx = s.rx := rfl
@[simp] theorem storeRangeStart_tx :
    (storeRangeStart s).tx = s.tx := rfl
@[simp] theorem storeRangeStart_conn :
    (storeRangeStart s).conn = s.conn := rfl
@[simp] theorem storeRangeStart_chip :
    (storeRangeStart s).chip = s.chip := rfl
@[simp] theorem storeRangeStart_draws :
    (storeRangeStart s).draws = s.draws := rfl
@[simp] theorem storeRangeStart_faults :
    (storeRangeStart s).faults = s.faults := rfl
@[simp] theorem storeRangeStart_events :
    (storeRangeStart s).events = s.events := rfl

@[simp] theorem clearRangeStart_cfg :
    (clearRangeStart s).cfg = s.cfg := rfl
@[simp] theorem clearRangeStart_phase :
    (clearRangeStart s).phase = s.phase := rfl
@[simp] theorem clearRangeStart_st :
    (clearRangeStart s).session.st = s.session.st := rfl
@[simp] theorem clearRangeStart_instr :
    (clearRangeStart s).session.instr = s.session.instr := rfl
@[simp] theorem clearRangeStart_addr :
    (clearRangeStart s).session.addr = s.session.addr := rfl
@[simp] theorem clearRangeStart_buf :
    (clearRangeStart s).session.buf = s.session.buf := rfl
@[simp] theorem clearRangeStart_rsStart :
    (clearRangeStart s).session.rsStart = rsSentinel := rfl
@[simp] theorem clearRangeStart_rsPending :
    (clearRangeStart s).session.rsPending = false := rfl
@[simp] theorem clearRangeStart_cancelSeen :
    (clearRangeStart s).session.cancelSeen = s.session.cancelSeen := rfl
@[simp] theorem clearRangeStart_ovf :
    (clearRangeStart s).session.ovf = s.session.ovf := rfl
@[simp] theorem clearRangeStart_bus :
    (clearRangeStart s).bus = s.bus := rfl
@[simp] theorem clearRangeStart_ind :
    (clearRangeStart s).ind = s.ind := rfl
@[simp] theorem clearRangeStart_rx :
    (clearRangeStart s).rx = s.rx := rfl
@[simp] theorem clearRangeStart_tx :
    (clearRangeStart s).tx = s.tx := rfl
@[simp] theorem clearRangeStart_conn :
    (clearRangeStart s).conn = s.conn := rfl
@[simp] theorem clearRangeStart_chip :
    (clearRangeStart s).chip = s.chip := rfl
@[simp] theorem clearRangeStart_draws :
    (clearRangeStart s).draws = s.draws := rfl
@[simp] theorem clearRangeStart_faults :
    (clearRangeStart s).faults = s.faults := rfl
@[simp] theorem clearRangeStart_events :
    (clearRangeStart s).events = s.events := rfl

@[simp] theorem setCancelSeen_cfg (x : Bool) :
    (setCancelSeen x s).cfg = s.cfg := rfl
@[simp] theorem setCancelSeen_phase (x : Bool) :
    (setCancelSeen x s).phase = s.phase := rfl
@[simp] theorem setCancelSeen_st (x : Bool) :
    (setCancelSeen x s).session.st = s.session.st := rfl
@[simp] theorem setCancelSeen_instr (x : Bool) :
    (setCancelSeen x s).session.instr = s.session.instr := rfl
@[simp] theorem setCancelSeen_addr (x : Bool) :
    (setCancelSeen x s).session.addr = s.session.addr := rfl
@[simp] theorem setCancelSeen_buf (x : Bool) :
    (setCancelSeen x s).session.buf = s.session.buf := rfl
@[simp] theorem setCancelSeen_rsStart (x : Bool) :
    (setCancelSeen x s).session.rsStart = s.session.rsStart := rfl
@[simp] theorem setCancelSeen_rsPending (x : Bool) :
    (setCancelSeen x s).session.rsPending = s.session.rsPending := rfl
@[simp] theorem setCancelSeen_cancelSeen (x : Bool) :
    (setCancelSeen x s).session.cancelSeen = x := rfl
@[simp] theorem setCancelSeen_ovf (x : Bool) :
    (setCancelSeen x s).session.ovf = s.session.ovf := rfl
@[simp] theorem setCancelSeen_bus (x : Bool) :
    (setCancelSeen x s).bus = s.bus := rfl
@[simp] theorem setCancelSeen_ind (x : Bool) :
    (setCancelSeen x s).ind = s.ind := rfl
@[simp] theorem setCancelSeen_rx (x : Bool) :
    (setCancelSeen x s).rx = s.rx := rfl
@[simp] theorem setCancelSeen_tx (x : Bool) :
    (setCancelSeen x s).tx = s.tx := rfl
@[simp] theorem setCancelSeen_conn (x : Bool) :
    (setCancelSeen x s).conn = s.conn := rfl
@[simp] theorem setCancelSeen_chip (x : Bool) :
    (setCancelSeen x s).chip = s.chip := rfl
@[simp] theorem setCancelSeen_draws (x : Bool) :
    (setCancelSeen x s).draws = s.draws := rfl
@[simp] theorem setCancelSeen_faults (x : Bool) :
    (setCancelSeen x s).faults = s.faults := rfl
@[simp] theorem setCancelSeen_events (x : Bool) :
    (setCancelSeen x s).events = s.events := rfl

/-- A fault condition that does not hold leaves the state. -/
@[simp] theorem faultIf_false (f : Fault) : faultIf false f s = s := rfl

/-- A recorded fault is never cleared by recording another (40_bus_driver.md R107). -/
theorem add_keeps (f g : Fault) (fs : FaultSet) (h : fs.add g = fs) : (fs.add f).add g = fs.add f := by
  cases fs; cases f <;> cases g <;> simp_all [FaultSet.add]

end Sys2Proof.Machine
end

