-- ==== Sys2Proof/Laws/Bus.lean ====
section
/-! SUPPORT. What each bus primitive does (40_bus_driver.md): its field, its event, and nothing else but the
fault record. -/

namespace Sys2Proof.Machine

variable (s : State)

@[simp] theorem checkPosture_cfg : (checkPosture s).cfg = s.cfg := by simp [checkPosture]
@[simp] theorem checkPosture_phase : (checkPosture s).phase = s.phase := by simp [checkPosture]
@[simp] theorem checkPosture_session : (checkPosture s).session = s.session := by simp [checkPosture]
@[simp] theorem checkPosture_ind : (checkPosture s).ind = s.ind := by simp [checkPosture]
@[simp] theorem checkPosture_rx : (checkPosture s).rx = s.rx := by simp [checkPosture]
@[simp] theorem checkPosture_tx : (checkPosture s).tx = s.tx := by simp [checkPosture]
@[simp] theorem checkPosture_conn : (checkPosture s).conn = s.conn := by simp [checkPosture]
@[simp] theorem checkPosture_chip : (checkPosture s).chip = s.chip := by simp [checkPosture]
@[simp] theorem checkPosture_draws : (checkPosture s).draws = s.draws := by simp [checkPosture]
@[simp] theorem checkPosture_bus : (checkPosture s).bus = s.bus := by simp [checkPosture]
@[simp] theorem checkPosture_events : (checkPosture s).events = s.events := by simp [checkPosture]

@[simp] theorem setAddress_cfg (a : Addr) :
    (setAddress a s).cfg = s.cfg := by simp [setAddress]
@[simp] theorem setAddress_phase (a : Addr) :
    (setAddress a s).phase = s.phase := by simp [setAddress]
@[simp] theorem setAddress_session (a : Addr) :
    (setAddress a s).session = s.session := by simp [setAddress]
@[simp] theorem setAddress_ind (a : Addr) :
    (setAddress a s).ind = s.ind := by simp [setAddress]
@[simp] theorem setAddress_rx (a : Addr) :
    (setAddress a s).rx = s.rx := by simp [setAddress]
@[simp] theorem setAddress_tx (a : Addr) :
    (setAddress a s).tx = s.tx := by simp [setAddress]
@[simp] theorem setAddress_conn (a : Addr) :
    (setAddress a s).conn = s.conn := by simp [setAddress]
@[simp] theorem setAddress_chip (a : Addr) :
    (setAddress a s).chip = s.chip := by simp [setAddress]
@[simp] theorem setAddress_draws (a : Addr) :
    (setAddress a s).draws = s.draws := by simp [setAddress]
@[simp] theorem setAddress_bus (a : Addr) :
    (setAddress a s).bus = { s.bus with a := busAddr a } := by simp [setAddress]
@[simp] theorem setAddress_events (a : Addr) :
    (setAddress a s).events = s.events ++ [.setA (busAddr a)] := by simp [setAddress]

@[simp] theorem setDataDirection_cfg (d : Dir) :
    (setDataDirection d s).cfg = s.cfg := by simp [setDataDirection]
@[simp] theorem setDataDirection_phase (d : Dir) :
    (setDataDirection d s).phase = s.phase := by simp [setDataDirection]
@[simp] theorem setDataDirection_session (d : Dir) :
    (setDataDirection d s).session = s.session := by simp [setDataDirection]
@[simp] theorem setDataDirection_ind (d : Dir) :
    (setDataDirection d s).ind = s.ind := by simp [setDataDirection]
@[simp] theorem setDataDirection_rx (d : Dir) :
    (setDataDirection d s).rx = s.rx := by simp [setDataDirection]
@[simp] theorem setDataDirection_tx (d : Dir) :
    (setDataDirection d s).tx = s.tx := by simp [setDataDirection]
@[simp] theorem setDataDirection_conn (d : Dir) :
    (setDataDirection d s).conn = s.conn := by simp [setDataDirection]
@[simp] theorem setDataDirection_chip (d : Dir) :
    (setDataDirection d s).chip = s.chip := by simp [setDataDirection]
@[simp] theorem setDataDirection_draws (d : Dir) :
    (setDataDirection d s).draws = s.draws := by simp [setDataDirection]
@[simp] theorem setDataDirection_bus (d : Dir) :
    (setDataDirection d s).bus = { s.bus with dir := d } := by simp [setDataDirection]
@[simp] theorem setDataDirection_events (d : Dir) :
    (setDataDirection d s).events = s.events ++ [.setDir d] := by simp [setDataDirection]

@[simp] theorem setDataOut_cfg (v : Byte) :
    (setDataOut v s).cfg = s.cfg := by simp [setDataOut]
@[simp] theorem setDataOut_phase (v : Byte) :
    (setDataOut v s).phase = s.phase := by simp [setDataOut]
@[simp] theorem setDataOut_session (v : Byte) :
    (setDataOut v s).session = s.session := by simp [setDataOut]
@[simp] theorem setDataOut_ind (v : Byte) :
    (setDataOut v s).ind = s.ind := by simp [setDataOut]
@[simp] theorem setDataOut_rx (v : Byte) :
    (setDataOut v s).rx = s.rx := by simp [setDataOut]
@[simp] theorem setDataOut_tx (v : Byte) :
    (setDataOut v s).tx = s.tx := by simp [setDataOut]
@[simp] theorem setDataOut_conn (v : Byte) :
    (setDataOut v s).conn = s.conn := by simp [setDataOut]
@[simp] theorem setDataOut_chip (v : Byte) :
    (setDataOut v s).chip = s.chip := by simp [setDataOut]
@[simp] theorem setDataOut_draws (v : Byte) :
    (setDataOut v s).draws = s.draws := by simp [setDataOut]
@[simp] theorem setDataOut_bus (v : Byte) :
    (setDataOut v s).bus = { s.bus with dlatch := v } := by simp [setDataOut]
@[simp] theorem setDataOut_events (v : Byte) :
    (setDataOut v s).events = s.events ++ [.setD v] := by simp [setDataOut]

@[simp] theorem setOutputEnable_cfg (x : Bool) :
    (setOutputEnable x s).cfg = s.cfg := by simp [setOutputEnable]
@[simp] theorem setOutputEnable_phase (x : Bool) :
    (setOutputEnable x s).phase = s.phase := by simp [setOutputEnable]
@[simp] theorem setOutputEnable_session (x : Bool) :
    (setOutputEnable x s).session = s.session := by simp [setOutputEnable]
@[simp] theorem setOutputEnable_ind (x : Bool) :
    (setOutputEnable x s).ind = s.ind := by simp [setOutputEnable]
@[simp] theorem setOutputEnable_rx (x : Bool) :
    (setOutputEnable x s).rx = s.rx := by simp [setOutputEnable]
@[simp] theorem setOutputEnable_tx (x : Bool) :
    (setOutputEnable x s).tx = s.tx := by simp [setOutputEnable]
@[simp] theorem setOutputEnable_conn (x : Bool) :
    (setOutputEnable x s).conn = s.conn := by simp [setOutputEnable]
@[simp] theorem setOutputEnable_chip (x : Bool) :
    (setOutputEnable x s).chip = s.chip := by simp [setOutputEnable]
@[simp] theorem setOutputEnable_draws (x : Bool) :
    (setOutputEnable x s).draws = s.draws := by simp [setOutputEnable]
@[simp] theorem setOutputEnable_bus (x : Bool) :
    (setOutputEnable x s).bus = { s.bus with oe := x } := by simp [setOutputEnable]
@[simp] theorem setOutputEnable_events (x : Bool) :
    (setOutputEnable x s).events = s.events ++ [.oe x] := by simp [setOutputEnable]

@[simp] theorem chipLatch_cfg : (chipLatch s).cfg = s.cfg := by
  unfold chipLatch; split <;> rfl
@[simp] theorem chipLatch_phase : (chipLatch s).phase = s.phase := by
  unfold chipLatch; split <;> rfl
@[simp] theorem chipLatch_session : (chipLatch s).session = s.session := by
  unfold chipLatch; split <;> rfl
@[simp] theorem chipLatch_ind : (chipLatch s).ind = s.ind := by
  unfold chipLatch; split <;> rfl
@[simp] theorem chipLatch_rx : (chipLatch s).rx = s.rx := by
  unfold chipLatch; split <;> rfl
@[simp] theorem chipLatch_tx : (chipLatch s).tx = s.tx := by
  unfold chipLatch; split <;> rfl
@[simp] theorem chipLatch_conn : (chipLatch s).conn = s.conn := by
  unfold chipLatch; split <;> rfl
@[simp] theorem chipLatch_draws : (chipLatch s).draws = s.draws := by
  unfold chipLatch; split <;> rfl
@[simp] theorem chipLatch_bus : (chipLatch s).bus = s.bus := by
  unfold chipLatch; split <;> rfl
@[simp] theorem chipLatch_faults : (chipLatch s).faults = s.faults := by
  unfold chipLatch; split <;> rfl
@[simp] theorem chipLatch_events : (chipLatch s).events = s.events := by
  unfold chipLatch; split <;> rfl

@[simp] theorem setWriteEnable_cfg (x : Bool) :
    (setWriteEnable x s).cfg = s.cfg := by
  unfold setWriteEnable; split <;> simp
@[simp] theorem setWriteEnable_phase (x : Bool) :
    (setWriteEnable x s).phase = s.phase := by
  unfold setWriteEnable; split <;> simp
@[simp] theorem setWriteEnable_session (x : Bool) :
    (setWriteEnable x s).session = s.session := by
  unfold setWriteEnable; split <;> simp
@[simp] theorem setWriteEnable_ind (x : Bool) :
    (setWriteEnable x s).ind = s.ind := by
  unfold setWriteEnable; split <;> simp
@[simp] theorem setWriteEnable_rx (x : Bool) :
    (setWriteEnable x s).rx = s.rx := by
  unfold setWriteEnable; split <;> simp
@[simp] theorem setWriteEnable_tx (x : Bool) :
    (setWriteEnable x s).tx = s.tx := by
  unfold setWriteEnable; split <;> simp
@[simp] theorem setWriteEnable_conn (x : Bool) :
    (setWriteEnable x s).conn = s.conn := by
  unfold setWriteEnable; split <;> simp
@[simp] theorem setWriteEnable_draws (x : Bool) :
    (setWriteEnable x s).draws = s.draws := by
  unfold setWriteEnable; split <;> simp
@[simp] theorem setWriteEnable_bus (x : Bool) :
    (setWriteEnable x s).bus = { s.bus with we := x } := by
  unfold setWriteEnable; split <;> simp
@[simp] theorem setWriteEnable_events (x : Bool) :
    (setWriteEnable x s).events = s.events ++ [.we x] := by
  unfold setWriteEnable; split <;> simp
@[simp] theorem setWriteEnable_true_chip : (setWriteEnable true s).chip = s.chip := by
  simp [setWriteEnable]

@[simp] theorem sampleLines_cfg : (sampleLines s).2.cfg = s.cfg := by
  unfold sampleLines; split <;> rfl
@[simp] theorem sampleLines_phase : (sampleLines s).2.phase = s.phase := by
  unfold sampleLines; split <;> rfl
@[simp] theorem sampleLines_session : (sampleLines s).2.session = s.session := by
  unfold sampleLines; split <;> rfl
@[simp] theorem sampleLines_ind : (sampleLines s).2.ind = s.ind := by
  unfold sampleLines; split <;> rfl
@[simp] theorem sampleLines_rx : (sampleLines s).2.rx = s.rx := by
  unfold sampleLines; split <;> rfl
@[simp] theorem sampleLines_tx : (sampleLines s).2.tx = s.tx := by
  unfold sampleLines; split <;> rfl
@[simp] theorem sampleLines_conn : (sampleLines s).2.conn = s.conn := by
  unfold sampleLines; split <;> rfl
@[simp] theorem sampleLines_chip : (sampleLines s).2.chip = s.chip := by
  unfold sampleLines; split <;> rfl
@[simp] theorem sampleLines_bus : (sampleLines s).2.bus = s.bus := by
  unfold sampleLines; split <;> rfl
@[simp] theorem sampleLines_faults : (sampleLines s).2.faults = s.faults := by
  unfold sampleLines; split <;> rfl
@[simp] theorem sampleLines_events : (sampleLines s).2.events = s.events := by
  unfold sampleLines; split <;> rfl
@[simp] theorem readDataIn_cfg : (readDataIn s).2.cfg = s.cfg := by simp [readDataIn]
@[simp] theorem readDataIn_phase : (readDataIn s).2.phase = s.phase := by simp [readDataIn]
@[simp] theorem readDataIn_session : (readDataIn s).2.session = s.session := by simp [readDataIn]
@[simp] theorem readDataIn_ind : (readDataIn s).2.ind = s.ind := by simp [readDataIn]
@[simp] theorem readDataIn_rx : (readDataIn s).2.rx = s.rx := by simp [readDataIn]
@[simp] theorem readDataIn_tx : (readDataIn s).2.tx = s.tx := by simp [readDataIn]
@[simp] theorem readDataIn_conn : (readDataIn s).2.conn = s.conn := by simp [readDataIn]
@[simp] theorem readDataIn_chip : (readDataIn s).2.chip = s.chip := by simp [readDataIn]
@[simp] theorem readDataIn_bus : (readDataIn s).2.bus = s.bus := by simp [readDataIn]
@[simp] theorem readDataIn_events :
    (readDataIn s).2.events = s.events ++ [.sample (readDataIn s).1] := by simp [readDataIn]

/-- The posture check records nothing in a posture that is neither contention nor write with output. -/
theorem checkPosture_clean (h1 : ¬ (s.bus.dir = .output ∧ s.bus.oe = true))
    (h2 : ¬ (s.bus.we = true ∧ s.bus.oe = true)) : checkPosture s = s := by
  have e1 : (s.bus.dir == Dir.output && s.bus.oe) = false := by
    rw [Bool.eq_false_iff]; simpa using h1
  have e2 : (s.bus.we && s.bus.oe) = false := by
    rw [Bool.eq_false_iff]; simpa using h2
  simp [checkPosture, e1, e2]

end Sys2Proof.Machine
end

