-- ==== Sys2Proof/Laws/Decode.lean ====
section
/-! SUPPORT. The laws of the operand forms and of the byte decoder (30_encoding.md). -/

namespace Sys2Proof

/-- The bits of an assembled address: the low byte's, then the high byte's (R84). -/
theorem getLsbD_assembleAddr (hi lo : Byte) (i : Nat) :
    (assembleAddr hi lo).getLsbD i = if i < 8 then lo.getLsbD i else hi.getLsbD (i - 8) := by
  simp only [assembleAddr, BitVec.getLsbD_or, BitVec.getLsbD_shiftLeft, BitVec.getLsbD_setWidth]
  by_cases h : i < 8
  · simp [h, show i < 16 by omega]
  · have hl : lo.getLsbD i = false := BitVec.getLsbD_of_ge _ _ (by omega)
    by_cases h16 : i < 16
    · simp [h, h16, hl, show i - 8 < 16 by omega]
    · have hh : hi.getLsbD (i - 8) = false := BitVec.getLsbD_of_ge _ _ (by omega)
      simp [h, h16, hh]

/-- The two address transitions together assemble the operand (R84). -/
theorem addrWithLow_addrFromHigh (hi lo : Byte) :
    addrWithLow (addrFromHigh hi) lo = assembleAddr hi lo := by
  apply BitVec.eq_of_getLsbD_eq
  intro i hi'
  have happ := BitVec.getLsbD_append (x := (addrFromHigh hi).extractLsb' 8 8) (y := lo) (i := i)
  rw [getLsbD_assembleAddr]
  refine happ.trans ?_
  simp only [addrFromHigh, BitVec.getLsbD_extractLsb', BitVec.getLsbD_shiftLeft,
    BitVec.getLsbD_setWidth]
  by_cases h : i < 8
  · simp [h]
  · simp [h, show i - 8 < 8 by omega, show 8 + (i - 8) < 16 by omega, show i - 8 < 16 by omega]

/-- An address is assembled from its own two bytes (R52, R84). -/
@[simp] theorem assembleAddr_bytes (a : Addr) : assembleAddr (addrHighByte a) (addrLowByte a) = a := by
  apply BitVec.eq_of_getLsbD_eq
  intro i h
  rw [getLsbD_assembleAddr]
  simp only [addrHighByte, addrLowByte, BitVec.getLsbD_extractLsb']
  by_cases h8 : i < 8
  · simp [h8]
  · simp [h8, show i - 8 < 8 by omega, show 8 + (i - 8) = i by omega]

/-- The bytes of an assembled address are the two it was assembled from (R52). -/
@[simp] theorem addrHighByte_assembleAddr (hi lo : Byte) : addrHighByte (assembleAddr hi lo) = hi := by
  apply BitVec.eq_of_getLsbD_eq
  intro i h
  simp only [addrHighByte, BitVec.getLsbD_extractLsb', getLsbD_assembleAddr]
  simp [h]

@[simp] theorem addrLowByte_assembleAddr (hi lo : Byte) : addrLowByte (assembleAddr hi lo) = lo := by
  apply BitVec.eq_of_getLsbD_eq
  intro i h
  simp only [addrLowByte, BitVec.getLsbD_extractLsb', getLsbD_assembleAddr]
  simp [h]

/-- The four command bytes name their commands. -/
@[simp] theorem commandOf_writeByte : commandOf opWriteByte = some .writeByte := rfl
@[simp] theorem commandOf_writeStream : commandOf opWriteStream = some .writeStream := rfl
@[simp] theorem commandOf_readByte : commandOf opReadByte = some .readByte := rfl
@[simp] theorem commandOf_readStream : commandOf opReadStream = some .readStream := rfl

/-- A byte outside the six decodes to UNKNOWN (R87). -/
theorem decodeCommand_unknown (b : Byte) (h : isCommandByte b = false) : decodeCommand b = .unknown b := by
  simp only [isCommandByte, Bool.or_eq_false_iff, beq_eq_false_iff_ne, ne_eq] at h
  simp [decodeCommand, h]

end Sys2Proof
end

