-- ==== Sys2Proof/Laws/Eeprom.lean ====
section
/-! SUPPORT. What each EEPROM Operation does (41_eeprom_ops.md): in every state, the fields it leaves; from the
idle posture, the whole next state. -/

namespace Sys2Proof.Machine

variable (s : State)

@[simp] theorem delay_events (k : DelayKind) : (delay k s).events = s.events ++ [.delay k] := by
  unfold delay; split <;> rfl

/-- The write-cycle delay ends the chip's internal write cycle; the other delays only leave their event. -/
theorem delay_wc : delay .wc s = record (.delay .wc) { s with chip.busy := false } := by
  simp [delay]

theorem delay_other {k : DelayKind} (h : k ≠ .wc) : delay k s = record (.delay k) s := by
  simp [delay, h]

section Frames
variable (d : Byte) (a : Addr) (k : DelayKind)
@[simp] theorem delay_cfg : (delay k s).cfg = s.cfg := by
  unfold delay; split <;> rfl
@[simp] theorem delay_phase : (delay k s).phase = s.phase := by
  unfold delay; split <;> rfl
@[simp] theorem delay_session : (delay k s).session = s.session := by
  unfold delay; split <;> rfl
@[simp] theorem delay_bus : (delay k s).bus = s.bus := by
  unfold delay; split <;> rfl
@[simp] theorem delay_ind : (delay k s).ind = s.ind := by
  unfold delay; split <;> rfl
@[simp] theorem delay_rx : (delay k s).rx = s.rx := by
  unfold delay; split <;> rfl
@[simp] theorem delay_tx : (delay k s).tx = s.tx := by
  unfold delay; split <;> rfl
@[simp] theorem delay_conn : (delay k s).conn = s.conn := by
  unfold delay; split <;> rfl
@[simp] theorem delay_draws : (delay k s).draws = s.draws := by
  unfold delay; split <;> rfl
@[simp] theorem delay_faults : (delay k s).faults = s.faults := by
  unfold delay; split <;> rfl
@[simp] theorem programByte_cfg : (programByte d a s).cfg = s.cfg := by simp [programByte]
@[simp] theorem programByte_phase : (programByte d a s).phase = s.phase := by simp [programByte]
@[simp] theorem programByte_session : (programByte d a s).session = s.session := by simp [programByte]
@[simp] theorem programByte_ind : (programByte d a s).ind = s.ind := by simp [programByte]
@[simp] theorem programByte_rx : (programByte d a s).rx = s.rx := by simp [programByte]
@[simp] theorem programByte_tx : (programByte d a s).tx = s.tx := by simp [programByte]
@[simp] theorem programByte_conn : (programByte d a s).conn = s.conn := by simp [programByte]
@[simp] theorem programByte_draws : (programByte d a s).draws = s.draws := by simp [programByte]
@[simp] theorem readByte_cfg : (readByte a s).2.cfg = s.cfg := by
  simp [readByte, endRead, awaitOutputSettle]
@[simp] theorem readByte_phase : (readByte a s).2.phase = s.phase := by
  simp [readByte, endRead, awaitOutputSettle]
@[simp] theorem readByte_session : (readByte a s).2.session = s.session := by
  simp [readByte, endRead, awaitOutputSettle]
@[simp] theorem readByte_ind : (readByte a s).2.ind = s.ind := by
  simp [readByte, endRead, awaitOutputSettle]
@[simp] theorem readByte_rx : (readByte a s).2.rx = s.rx := by
  simp [readByte, endRead, awaitOutputSettle]
@[simp] theorem readByte_tx : (readByte a s).2.tx = s.tx := by
  simp [readByte, endRead, awaitOutputSettle]
@[simp] theorem readByte_conn : (readByte a s).2.conn = s.conn := by
  simp [readByte, endRead, awaitOutputSettle]
@[simp] theorem delay_acc_chip : (delay .acc s).chip = s.chip := rfl
@[simp] theorem readByte_chip : (readByte a s).2.chip = s.chip := by
  simp [readByte, endRead, awaitOutputSettle]
@[simp] theorem readOne_cfg (n : Nat) : (readOne a n s).cfg = s.cfg := by
  unfold readOne awaitOutputSettle; split <;> simp
@[simp] theorem readOne_phase (n : Nat) : (readOne a n s).phase = s.phase := by
  unfold readOne awaitOutputSettle; split <;> simp
@[simp] theorem readOne_session (n : Nat) : (readOne a n s).session = s.session := by
  unfold readOne awaitOutputSettle; split <;> simp
@[simp] theorem readOne_ind (n : Nat) : (readOne a n s).ind = s.ind := by
  unfold readOne awaitOutputSettle; split <;> simp
@[simp] theorem readOne_rx (n : Nat) : (readOne a n s).rx = s.rx := by
  unfold readOne awaitOutputSettle; split <;> simp
@[simp] theorem readOne_conn (n : Nat) : (readOne a n s).conn = s.conn := by
  unfold readOne awaitOutputSettle; split <;> simp
@[simp] theorem readOne_chip (n : Nat) : (readOne a n s).chip = s.chip := by
  unfold readOne awaitOutputSettle; split <;> simp
@[simp] theorem readLoop_cfg (n m : Nat) : (readLoop a n m s).cfg = s.cfg := by
  induction n generalizing m s with
  | zero => rfl
  | succ n ih => simp [readLoop, ih]
@[simp] theorem readLoop_phase (n m : Nat) : (readLoop a n m s).phase = s.phase := by
  induction n generalizing m s with
  | zero => rfl
  | succ n ih => simp [readLoop, ih]
@[simp] theorem readLoop_session (n m : Nat) : (readLoop a n m s).session = s.session := by
  induction n generalizing m s with
  | zero => rfl
  | succ n ih => simp [readLoop, ih]
@[simp] theorem readLoop_ind (n m : Nat) : (readLoop a n m s).ind = s.ind := by
  induction n generalizing m s with
  | zero => rfl
  | succ n ih => simp [readLoop, ih]
@[simp] theorem readLoop_rx (n m : Nat) : (readLoop a n m s).rx = s.rx := by
  induction n generalizing m s with
  | zero => rfl
  | succ n ih => simp [readLoop, ih]
@[simp] theorem readLoop_conn (n m : Nat) : (readLoop a n m s).conn = s.conn := by
  induction n generalizing m s with
  | zero => rfl
  | succ n ih => simp [readLoop, ih]
@[simp] theorem readLoop_chip (n m : Nat) : (readLoop a n m s).chip = s.chip := by
  induction n generalizing m s with
  | zero => rfl
  | succ n ih => simp [readLoop, ih]
@[simp] theorem readRange_cfg (b : Addr) : (readRange a b s).cfg = s.cfg := by
  unfold readRange; split <;> simp [endRead]
@[simp] theorem readRange_phase (b : Addr) : (readRange a b s).phase = s.phase := by
  unfold readRange; split <;> simp [endRead]
@[simp] theorem readRange_session (b : Addr) : (readRange a b s).session = s.session := by
  unfold readRange; split <;> simp [endRead]
@[simp] theorem readRange_ind (b : Addr) : (readRange a b s).ind = s.ind := by
  unfold readRange; split <;> simp [endRead]
@[simp] theorem readRange_rx (b : Addr) : (readRange a b s).rx = s.rx := by
  unfold readRange; split <;> simp [endRead]
@[simp] theorem readRange_conn (b : Addr) : (readRange a b s).conn = s.conn := by
  unfold readRange; split <;> simp [endRead]
@[simp] theorem readRange_chip (b : Addr) : (readRange a b s).chip = s.chip := by
  unfold readRange; split <;> simp [endRead]
end Frames

/-- programByte from the idle posture (R113). -/
theorem programByte_idle (h : s.bus.Idle) (d : Byte) (a : Addr) :
    programByte d a s =
      { s with
        bus := busAfterProgram d a
        chip := s.chip.programmed (busAddr a) d
        events := s.events ++ programTrace d a } := by
  obtain ⟨cfg, phase, session, ⟨ba, dl, dir, we, oe⟩, ind, rx, tx, conn, ⟨env, cells, busy⟩, draws,
    faults, events⟩ := s
  obtain ⟨rfl, rfl, rfl⟩ := h
  cases env <;>
    simp [programByte, setAddress, setDataDirection, setDataOut, setWriteEnable, delay, record, faultIf,
      checkPosture, chipLatch, Bus.writePosture, programTrace, busAfterProgram, Chip.programmed]

/-- A sample in a read posture (R58, R102). -/
theorem readDataIn_reading (hd : s.bus.dir = .input) (hw : s.bus.we = false) (ho : s.bus.oe = true) :
    readDataIn s = (s.sampleAt 0 s.bus.a,
      { s with draws := s.drawsAfter 1, events := s.events ++ [.sample (s.sampleAt 0 s.bus.a)] }) := by
  obtain ⟨cfg, phase, session, ⟨ba, dl, dir, we, oe⟩, ind, rx, tx, conn, ⟨env, cells, busy⟩, draws,
    faults, events⟩ := s
  simp only at hd hw ho
  subst hd hw ho
  cases env <;> cases busy <;>
    simp [readDataIn, sampleLines, faultIf, checkPosture, record, Bus.readPosture, State.sampleAt,
      State.drawsAfter, State.determined, State.cell]

/-- readByte from the idle posture (R116). -/
theorem readByte_idle (h : s.bus.Idle) (a : Addr) :
    readByte a s = (s.sampleAt 0 (busAddr a),
      { s with
        bus.a := busAddr a
        draws := s.drawsAfter 1
        events := s.events ++ readTrace a (s.sampleAt 0 (busAddr a)) }) := by
  obtain ⟨cfg, phase, session, ⟨ba, dl, dir, we, oe⟩, ind, rx, tx, conn, ⟨env, cells, busy⟩, draws,
    faults, events⟩ := s
  obtain ⟨rfl, rfl, rfl⟩ := h
  cases env <;> cases busy <;>
    simp [readByte, endRead, awaitOutputSettle, setDataDirection, setAddress, setOutputEnable, delay,
      readDataIn, sampleLines, faultIf, checkPosture, record, Bus.readPosture, State.sampleAt,
      State.drawsAfter, State.determined, State.cell, readTrace]

theorem readRange_empty {start stop : Addr} (h : stop < start) : readRange start stop s = s := by
  simp [readRange, h]

/-- One pass of the loop in a read posture. -/
theorem readOne_reading (hd : s.bus.dir = .input) (hw : s.bus.we = false) (ho : s.bus.oe = true)
    (start : Addr) (a : Nat) (ha : a = start.toNat → s.bus.a = busAddr (BitVec.ofNat 16 a)) :
    readOne start a s =
      { s with
        bus.a := busAddr (BitVec.ofNat 16 a)
        draws := s.drawsAfter 1
        tx := s.tx ++ [s.sampleAt 0 (busAddr (BitVec.ofNat 16 a))]
        events := s.events ++ ((if a = start.toNat then [] else [.setA (busAddr (BitVec.ofNat 16 a))]) ++
          [.delay .acc, .sample (s.sampleAt 0 (busAddr (BitVec.ofNat 16 a))),
            .tx (s.sampleAt 0 (busAddr (BitVec.ofNat 16 a)))]) } := by
  obtain ⟨cfg, phase, session, ⟨ba, dl, dir, we, oe⟩, ind, rx, tx, conn, ⟨env, cells, busy⟩, draws,
    faults, events⟩ := s
  simp only at hd hw ho ha
  subst hd hw ho
  by_cases h : a = start.toNat
  · have := ha h; subst this
    cases env <;> cases busy <;>
      simp [readOne, h, awaitOutputSettle, delay, readDataIn, sampleLines, faultIf, checkPosture, record,
        respond, Bus.readPosture, State.sampleAt, State.drawsAfter, State.determined, State.cell]
  · cases env <;> cases busy <;>
      simp [readOne, h, awaitOutputSettle, delay, setAddress, readDataIn, sampleLines, faultIf,
        checkPosture, record, respond, Bus.readPosture, State.sampleAt, State.drawsAfter,
        State.determined, State.cell]

/-- What the samples depend on: the environment, its cells, and the draws made so far. -/
theorem samplesFrom_congr {s t : State} (hc : t.chip = s.chip) {m k l : Nat}
    (hd : s.determined = false → t.draws + k = s.draws + l) (a n : Nat) (hm : m = n) :
    t.samplesFrom k a n = s.samplesFrom l a m := by
  subst hm
  induction m generalizing a k l with
  | zero => rfl
  | succ n ih =>
    simp only [State.samplesFrom]
    congr 1
    · have : t.determined = s.determined := by simp [State.determined, hc]
      simp only [State.sampleAt, this, State.cell, hc]
      split
      · rfl
      · rename_i h; rw [hd (by simpa using h)]
    · exact ih (fun h => by have := hd h; omega) (a + 1)

/-- The loop of readRange in a read posture (R118). -/
theorem readLoop_reading (start : Addr) (n : Nat) (a : Nat) (s : State)
    (hd : s.bus.dir = .input) (hw : s.bus.we = false) (ho : s.bus.oe = true)
    (hs : start.toNat ≤ a)
    (ha : a = start.toNat → s.bus.a = busAddr (BitVec.ofNat 16 a)) :
    readLoop start n a s =
      { s with
        bus.a := if n = 0 then s.bus.a else busAddr (BitVec.ofNat 16 (a + n - 1))
        draws := s.drawsAfter n
        tx := s.tx ++ s.samplesFrom 0 a n
        events := s.events ++ rangeLoopTrace start a (s.samplesFrom 0 a n) } := by
  induction n generalizing a s with
  | zero => simp [readLoop, State.samplesFrom, rangeLoopTrace, State.drawsAfter]
  | succ n ih =>
    rw [readLoop, readOne_reading s hd hw ho start a ha,
      ih _ _ (by simpa using hd) (by simpa using hw) (by simpa using ho) (by omega)
        (fun h => absurd h (by omega))]
    have hdet : ∀ (x : BusAddr) (e : List Event) (t : List Byte) (dr : Nat),
        State.determined { s with bus.a := x, draws := dr, tx := t, events := e } = s.determined :=
      fun _ _ _ _ => rfl
    have hsam : ∀ (x : BusAddr) (e : List Event) (t : List Byte),
        State.samplesFrom { s with bus.a := x, draws := s.drawsAfter 1, tx := t, events := e } 0 (a + 1) n
          = s.samplesFrom 1 (a + 1) n := by
      intro x e t
      exact samplesFrom_congr (s := s)
        (t := { s with bus.a := x, draws := s.drawsAfter 1, tx := t, events := e }) rfl
        (fun h => by simp [State.drawsAfter, h]) (a + 1) n rfl
    rw [hsam]
    have hlast : a + 1 + n - 1 = a + (n + 1) - 1 := by omega
    simp only [State.samplesFrom, rangeLoopTrace, State.drawsAfter, hdet, hlast]
    congr 1
    · cases n with
      | zero => simp
      | succ n => simp
    · simp
    · split <;> omega
    · simp

/-- A non-empty readRange from the idle posture (R118). -/
theorem readRange_idle (h : s.bus.Idle) {start stop : Addr} (hle : start ≤ stop) :
    readRange start stop s =
      { s with
        bus.a := busAddr stop
        draws := s.drawsAfter (stop.toNat - start.toNat + 1)
        tx := s.tx ++ s.samplesFrom 0 start.toNat (stop.toNat - start.toNat + 1)
        events := s.events ++
          rangeTrace start (s.samplesFrom 0 start.toNat (stop.toNat - start.toNat + 1)) } := by
  have hlt : ¬ stop < start := by simpa using hle
  have hn : start.toNat ≤ stop.toNat := by simpa [BitVec.le_def] using hle
  obtain ⟨h1, h2, h3⟩ := h
  rw [readRange, if_neg hlt]
  have e1 : setOutputEnable true (setAddress start (setDataDirection .input s)) =
      { s with
        bus := { s.bus with dir := .input, a := busAddr start, oe := true }
        events := s.events ++ [.setDir .input, .setA (busAddr start), .oe true] } := by
    obtain ⟨cfg, phase, session, ⟨ba, dl, dir, we, oe⟩, ind, rx, tx, conn, ⟨env, cells, busy⟩, draws,
      faults, events⟩ := s
    simp only at h1 h2 h3
    subst h1 h2 h3
    simp [setDataDirection, setAddress, setOutputEnable, checkPosture, faultIf, record]
  simp only [e1]
  rw [readLoop_reading _ _ _ _ rfl (by exact h2) rfl le_rfl (fun _ => by simp)]
  have hsam := fun m => samplesFrom_congr (s := s) (t := { s with
        bus := { s.bus with dir := .input, a := busAddr start, oe := true }
        events := s.events ++ [.setDir .input, .setA (busAddr start), .oe true] }) rfl
        (k := 0) (l := 0) (fun _ => rfl) start.toNat m rfl
  have hstop : start.toNat + (stop.toNat - start.toNat + 1) - 1 = stop.toNat := by omega
  rw [hsam, hstop]
  obtain ⟨cfg, phase, session, ⟨ba, dl, dir, we, oe⟩, ind, rx, tx, conn, ⟨env, cells, busy⟩, draws,
    faults, events⟩ := s
  simp only at h1 h2 h3
  subst h1 h2 h3
  simp [endRead, setDataDirection, setOutputEnable, checkPosture, faultIf, record, rangeTrace,
    State.drawsAfter, State.determined]

end Sys2Proof.Machine
end

