-- ==== Sys2Proof/Laws/Memory.lean ====
section
/-! SUPPORT. The laws of the cells: read after write, and the canonical form. -/

namespace Sys2Proof.Machine

variable (m : Memory) (a b : Nat) (v : Byte)

/-- A write gives every address the value it reads as: the value written at its own address, the old one
at every other. -/
theorem read_write (h : List.Pairwise (fun c d => c.1 < d.1) m) :
    (m.write a v).read b = if b = a then v else m.read b := by
  induction m with
  | nil => by_cases hv : v = erasedByte <;> simp [Memory.write, Memory.read, hv, eq_comm]
  | cons c m ih =>
    obtain ⟨k, w⟩ := c
    obtain ⟨hk, hm⟩ := List.pairwise_cons.1 h
    have notIn : ∀ x, x ≤ k → Memory.read m x = erasedByte := by
      intro x hx
      clear ih h
      induction m with
      | nil => rfl
      | cons d m ih =>
        have : k < d.1 := hk d (by simp)
        simp only [Memory.read]
        rw [if_neg (by omega)]
        exact ih (fun e he => hk e (by simp [he])) (List.pairwise_cons.1 hm).2
    simp only [Memory.write]
    by_cases h1 : a < k
    · rw [if_pos h1]
      by_cases hv : v = erasedByte
      · rw [if_pos hv]
        by_cases hb : b = a
        · subst hb
          simp only [Memory.read]
          rw [if_neg (by omega), notIn b (by omega)]
          simp [hv]
        · simp [hb]
      · rw [if_neg hv]
        by_cases hb : b = a
        · simp [Memory.read, hb]
        · simp [Memory.read, hb, Ne.symm hb]
    · rw [if_neg h1]
      by_cases h2 : a = k
      · subst h2
        rw [if_pos rfl]
        by_cases hv : v = erasedByte
        · rw [if_pos hv]
          by_cases hb : b = a
          · subst hb; rw [notIn _ le_rfl]; simp [hv]
          · simp [Memory.read, hb, Ne.symm hb]
        · rw [if_neg hv]
          by_cases hb : b = a
          · simp [Memory.read, hb]
          · simp [Memory.read, hb, Ne.symm hb]
      · rw [if_neg h2]
        simp only [Memory.read, ih hm]
        by_cases hb : b = a
        · subst hb; rw [if_neg (by omega)]; simp
        · simp [hb]

/-- The addresses listed after a write: the old ones and the one written. -/
theorem mem_write {c : Host.Cell} (h : c ∈ m.write a v) : c ∈ m ∨ (c = (a, v) ∧ v ≠ erasedByte) := by
  induction m with
  | nil => by_cases hv : v = erasedByte <;> simp_all [Memory.write]
  | cons d m ih =>
    simp only [Memory.write] at h
    split at h
    · split at h <;> simp_all
      tauto
    · split at h
      · split at h <;> simp_all
        tauto
      · simp only [List.mem_cons] at h ⊢
        rcases h with h | h
        · exact .inl (.inl h)
        · rcases ih h with h | h
          · exact .inl (.inr h)
          · exact .inr h

/-- A write at a cell of the chip keeps the canonical form. -/
theorem write_wf (h : m.wf) (ha : a < cellCount) : (m.write a v).wf := by
  refine ⟨?_, fun c hc => ?_⟩
  · obtain ⟨h, -⟩ := h
    induction m with
    | nil => by_cases hv : v = erasedByte <;> simp [Memory.write, hv]
    | cons d m ih =>
      obtain ⟨hd, hm⟩ := List.pairwise_cons.1 h
      simp only [Memory.write]
      split
      · split
        · exact h
        · refine List.pairwise_cons.2 ⟨fun c hc => ?_, h⟩
          rcases List.mem_cons.1 hc with rfl | hc
          · assumption
          · have := hd c hc; omega
      · split
        · split
          · exact hm
          · exact List.pairwise_cons.2 ⟨fun c hc => by have := hd c hc; omega, hm⟩
        · refine List.pairwise_cons.2 ⟨fun c hc => ?_, ih hm⟩
          rcases mem_write m a v hc with hc | ⟨rfl, -⟩
          · exact hd c hc
          · simp only; omega
  · rcases mem_write m a v hc with hc | ⟨rfl, hv⟩
    · exact h.2 c hc
    · exact ⟨ha, hv⟩

/-- Two memories in canonical form that read alike everywhere are equal data. -/
theorem wf_ext (m n : Memory) (hm : m.wf) (hn : n.wf) (h : ∀ a, m.read a = n.read a) : m = n := by
  have head : ∀ (k : Nat) (w : Byte) (m : Memory), Memory.wf ((k, w) :: m) →
      ∀ x, x < k → Memory.read ((k, w) :: m) x = erasedByte := by
    intro k w m hw
    induction m generalizing k w with
    | nil => intro x hx; simp [Memory.read]; omega
    | cons d m ih =>
      intro x hx
      have hlt : k < d.1 := (List.pairwise_cons.1 hw.1).1 d (by simp)
      simp only [Memory.read]
      rw [if_neg (by omega)]
      exact ih d.1 d.2 ⟨(List.pairwise_cons.1 hw.1).2, fun c hc => hw.2 c (by simp_all)⟩ x (by omega)
  induction m generalizing n with
  | nil =>
    cases n with
    | nil => rfl
    | cons d n =>
      have := h d.1
      simp only [Memory.read, if_true] at this
      exact absurd this.symm (hn.2 d (by simp)).2
  | cons c m ih =>
    obtain ⟨k, w⟩ := c
    cases n with
    | nil =>
      have := h k
      simp only [Memory.read, if_true] at this
      exact absurd this (hm.2 (k, w) (by simp)).2
    | cons d n =>
      obtain ⟨l, x⟩ := d
      have hkl : k = l := by
        rcases Nat.lt_trichotomy k l with hl | hl | hl
        · have h1 := h k
          rw [head l x n hn k hl] at h1
          simp only [Memory.read, if_true] at h1
          exact absurd h1 (hm.2 (k, w) (by simp)).2
        · exact hl
        · have h1 := h l
          rw [head k w m hm l hl] at h1
          simp only [Memory.read, if_true] at h1
          exact absurd h1.symm (hn.2 (l, x) (by simp)).2
      subst hkl
      have hw : w = x := by have := h k; simpa [Memory.read] using this
      subst hw
      have hm' : Memory.wf m := ⟨(List.pairwise_cons.1 hm.1).2, fun c hc => hm.2 c (by simp [hc])⟩
      have hn' : Memory.wf n := ⟨(List.pairwise_cons.1 hn.1).2, fun c hc => hn.2 c (by simp [hc])⟩
      have below : ∀ (m : Memory), Memory.wf ((k, w) :: m) → m.read k = erasedByte := by
        intro m hw
        cases m with
        | nil => rfl
        | cons d m =>
          have hlt : k < d.1 := (List.pairwise_cons.1 hw.1).1 d (by simp)
          exact head d.1 d.2 m ⟨(List.pairwise_cons.1 hw.1).2, fun c hc => hw.2 c (by simp_all)⟩ k hlt
      rw [ih n hm' hn' (fun a => by
        by_cases ha : k = a
        · subst ha; rw [below m hm, below n hn]
        · have := h a; simpa [Memory.read, ha] using this)]

end Sys2Proof.Machine
end

