-- ==== Sys2Proof/Laws/HostActions.lean ====
section
/-! SUPPORT. What a reset writes and what it leaves (70_reset_and_hazards.md R190, R191), and what doing a
recorded event again leaves. -/

namespace Sys2Proof.Machine

variable (s : State) (e : Event) (es fs : List Event) (held : List Byte)

/-- A write pulse's end keeps the environment. -/
@[simp] theorem chipLatch_env : (chipLatch s).chip.env = s.chip.env := by
  unfold chipLatch; split <;> rfl

/-- A write pulse's end writes at a cell of the chip or nothing. -/
theorem chipLatch_wf (h : s.chip.cells.wf) : (chipLatch s).chip.cells.wf := by
  unfold chipLatch; split
  · dsimp only; split
    · exact write_wf _ _ _ h s.bus.a.isLt
    · exact h
  · exact h

/-- A write pulse's end in the reference environment begins the chip's write cycle, in every posture (R60). -/
theorem chipLatch_busy (h : s.chip.env = .reference) : (chipLatch s).chip.busy = true := by
  simp [chipLatch, h]

section Reset
@[simp] theorem deviceReset_phase : (s.deviceReset held).phase = .gated := rfl
@[simp] theorem deviceReset_session : (s.deviceReset held).session = Session.reset := rfl
@[simp] theorem deviceReset_bus : (s.deviceReset held).bus = Bus.reset := rfl
@[simp] theorem deviceReset_ind : (s.deviceReset held).ind = false := rfl
@[simp] theorem deviceReset_rx : (s.deviceReset held).rx = held := rfl
@[simp] theorem deviceReset_tx : (s.deviceReset held).tx = [] := rfl
@[simp] theorem deviceReset_events : (s.deviceReset held).events = [] := rfl
@[simp] theorem resetControlLines_cfg : (resetControlLines s).cfg = s.cfg := by
  unfold resetControlLines; dsimp only; split <;> simp
@[simp] theorem resetControlLines_conn : (resetControlLines s).conn = s.conn := by
  unfold resetControlLines; dsimp only; split <;> simp
@[simp] theorem resetControlLines_draws : (resetControlLines s).draws = s.draws := by
  unfold resetControlLines; dsimp only; split <;> simp
@[simp] theorem resetControlLines_faults : (resetControlLines s).faults = s.faults := by
  unfold resetControlLines; dsimp only; split <;> simp
@[simp] theorem resetControlLines_chip :
    (resetControlLines s).chip = if s.bus.we then (chipLatch s).chip else s.chip := by
  unfold resetControlLines; dsimp only; split <;> rfl
@[simp] theorem deviceReset_cfg : (s.deviceReset held).cfg = s.cfg := resetControlLines_cfg s
@[simp] theorem deviceReset_conn : (s.deviceReset held).conn = s.conn := resetControlLines_conn s
@[simp] theorem deviceReset_draws : (s.deviceReset held).draws = s.draws := resetControlLines_draws s
@[simp] theorem deviceReset_faults : (s.deviceReset held).faults = s.faults := resetControlLines_faults s
@[simp] theorem deviceReset_chip :
    (s.deviceReset held).chip = if s.bus.we then (chipLatch s).chip else s.chip :=
  resetControlLines_chip s
end Reset

@[simp] theorem performAll_nil : performAll [] s = s := rfl
@[simp] theorem performAll_cons : performAll (e :: es) s = performAll es (perform s e) := rfl

/-- Events done in two parts are done one part after the other. -/
theorem performAll_append : performAll (es ++ fs) s = performAll fs (performAll es s) := by
  simp [performAll]

/-- An event's own address is already the bus's (20_memory.md R51). -/
theorem perform_setA (a : Addr) : perform s (.setA (busAddr a)) = setAddress a s := by
  have : busAddr ((busAddr a).setWidth 16) = busAddr a := by unfold busAddr; bv_omega
  simp only [perform, setAddress, this]

/-- What no recorded event touches, and the canonical form of the cells, which it keeps. -/
theorem perform_keeps : (perform s e).cfg = s.cfg ∧ (perform s e).conn = s.conn ∧
    (perform s e).rx = s.rx ∧ (perform s e).session = s.session ∧
    (perform s e).chip.env = s.chip.env ∧ (s.chip.cells.wf → (perform s e).chip.cells.wf) := by
  cases e with
  | we x =>
    refine ⟨by simp [perform], by simp [perform], by simp [perform], by simp [perform], ?_, ?_⟩
    all_goals
      obtain ⟨cfg, phase, session, ⟨a, v, dir, we, oe⟩, ind, rx, tx, conn, ⟨env, cells, busy⟩, draws,
        faults, events⟩ := s
      have hw := write_wf cells a.toNat v
      cases env <;> cases dir <;> cases oe <;> cases we <;> cases x <;>
        first | rfl | exact id | exact fun h => hw h a.isLt
  | delay k => cases k <;> exact ⟨rfl, rfl, rfl, rfl, rfl, id⟩
  | setA a => simp [perform]
  | setDir d => simp [perform]
  | setD v => simp [perform]
  | oe x => simp [perform]
  | sample v => simp [perform]
  | ind x => simp [perform]
  | tx b => simp [perform]

/-- The same of a list of events. -/
theorem performAll_keeps : (performAll es s).cfg = s.cfg ∧ (performAll es s).conn = s.conn ∧
    (performAll es s).rx = s.rx ∧ (performAll es s).session = s.session ∧
    (performAll es s).chip.env = s.chip.env ∧
    (s.chip.cells.wf → (performAll es s).chip.cells.wf) := by
  induction es generalizing s with
  | nil => exact ⟨rfl, rfl, rfl, rfl, rfl, id⟩
  | cons e es ih =>
    obtain ⟨h1, h2, h3, h4, h5, h6⟩ := perform_keeps s e
    obtain ⟨i1, i2, i3, i4, i5, i6⟩ := ih (perform s e)
    exact ⟨i1.trans h1, i2.trans h2, i3.trans h3, i4.trans h4, i5.trans h5, i6 ∘ h6⟩

/-- A step cut after k events. -/
theorem partOfStep_next {t : State} (h : step s = .next t) (k : Nat) :
    s.partOfStep k = performAll ((stepEvents s t).take k) { s with rx := t.rx, conn := t.conn } := by
  unfold State.partOfStep; rw [h]

end Sys2Proof.Machine
end

