-- ==== Sys2Proof/Laws/PerInstr.lean ====
section
/-! SUPPORT. The per-instruction family DecodeEncode: in every context that an instruction's byte stands in its
place in, the decoder reads the instruction back from its encoding. -/

namespace Sys2Proof.Laws.DecodeEncode

/-- For one instruction: decoding its byte in any context that expects it gives it back. -/
def Statement (i : Instr) : Prop :=
  i.wf = true → ∀ c : Context, c.expects i = true → decode c (encodeByte i) = .ok i

theorem writeByte (r : WriteByteRole) : Statement (.writeByte r) := by
  intro _ ⟨st, instr, p, cs⟩ h
  cases r <;> simp [Context.expects] at h <;> simp [decode, h, encodeByte, decodeAddrHigh, decodeAddrLow, decodeData]
  rfl

theorem writeStream (r : WriteStreamRole) : Statement (.writeStream r) := by
  intro hw ⟨st, instr, p, cs⟩ h
  cases r <;> simp [Context.expects, Instr.wf] at h hw <;>
    simp [decode, h, hw, encodeByte, decodeAddrHigh, decodeAddrLow, decodeData, streamRole]
  rfl

theorem readByte (r : ReadByteRole) : Statement (.readByte r) := by
  intro _ ⟨st, instr, p, cs⟩ h
  cases r <;> simp [Context.expects] at h <;> simp [decode, h, encodeByte, decodeAddrHigh, decodeAddrLow]
  rfl

theorem readStream (r : ReadStreamRole) : Statement (.readStream r) := by
  intro _ ⟨st, instr, p, cs⟩ h
  cases r <;> simp [Context.expects] at h <;> simp [decode, h, encodeByte, decodeAddrHigh, decodeAddrLow, rangeHiRole, rangeLoRole]
  rfl

theorem handshake : Statement .handshake := by
  intro _ c h; simp [Context.expects] at h; simp [decode, h, encodeByte]; rfl

theorem cancel : Statement .cancel := by
  intro _ c h; simp [Context.expects] at h; simp [decode, h, encodeByte]; rfl

theorem unknown (b : Byte) : Statement (.unknown b) := by
  intro hw c h
  simp [Context.expects] at h
  simp [Instr.wf] at hw
  simp [decode, h, encodeByte, decodeCommand_unknown b hw]

end Sys2Proof.Laws.DecodeEncode
end

