-- ==== Sys2Proof/Laws/Stream.lean ====
section
/-! SUPPORT. What append and flush do (42_protocol.md R133, R134). -/

namespace Sys2Proof.Machine

variable (s : State)

section Frames
variable (a : Addr)
@[simp] theorem programFrom_cfg (i : Nat) (ds : List Byte) :
    (programFrom a i ds s).cfg = s.cfg := by
  induction ds generalizing i s with
  | nil => rfl
  | cons d ds ih => simp [programFrom, ih]
@[simp] theorem programFrom_phase (i : Nat) (ds : List Byte) :
    (programFrom a i ds s).phase = s.phase := by
  induction ds generalizing i s with
  | nil => rfl
  | cons d ds ih => simp [programFrom, ih]
@[simp] theorem programFrom_session (i : Nat) (ds : List Byte) :
    (programFrom a i ds s).session = s.session := by
  induction ds generalizing i s with
  | nil => rfl
  | cons d ds ih => simp [programFrom, ih]
@[simp] theorem programFrom_ind (i : Nat) (ds : List Byte) :
    (programFrom a i ds s).ind = s.ind := by
  induction ds generalizing i s with
  | nil => rfl
  | cons d ds ih => simp [programFrom, ih]
@[simp] theorem programFrom_rx (i : Nat) (ds : List Byte) :
    (programFrom a i ds s).rx = s.rx := by
  induction ds generalizing i s with
  | nil => rfl
  | cons d ds ih => simp [programFrom, ih]
@[simp] theorem programFrom_tx (i : Nat) (ds : List Byte) :
    (programFrom a i ds s).tx = s.tx := by
  induction ds generalizing i s with
  | nil => rfl
  | cons d ds ih => simp [programFrom, ih]
@[simp] theorem programFrom_conn (i : Nat) (ds : List Byte) :
    (programFrom a i ds s).conn = s.conn := by
  induction ds generalizing i s with
  | nil => rfl
  | cons d ds ih => simp [programFrom, ih]
@[simp] theorem programFrom_draws (i : Nat) (ds : List Byte) :
    (programFrom a i ds s).draws = s.draws := by
  induction ds generalizing i s with
  | nil => rfl
  | cons d ds ih => simp [programFrom, ih]
@[simp] theorem append_cfg (v : Byte) : (append v s).cfg = s.cfg := by
  unfold append; split <;> rfl
@[simp] theorem append_phase (v : Byte) : (append v s).phase = s.phase := by
  unfold append; split <;> rfl
@[simp] theorem append_bus (v : Byte) : (append v s).bus = s.bus := by
  unfold append; split <;> rfl
@[simp] theorem append_ind (v : Byte) : (append v s).ind = s.ind := by
  unfold append; split <;> rfl
@[simp] theorem append_rx (v : Byte) : (append v s).rx = s.rx := by
  unfold append; split <;> rfl
@[simp] theorem append_tx (v : Byte) : (append v s).tx = s.tx := by
  unfold append; split <;> rfl
@[simp] theorem append_conn (v : Byte) : (append v s).conn = s.conn := by
  unfold append; split <;> rfl
@[simp] theorem append_chip (v : Byte) : (append v s).chip = s.chip := by
  unfold append; split <;> rfl
@[simp] theorem append_draws (v : Byte) : (append v s).draws = s.draws := by
  unfold append; split <;> rfl
@[simp] theorem append_faults (v : Byte) : (append v s).faults = s.faults := by
  unfold append; split <;> rfl
@[simp] theorem append_events (v : Byte) : (append v s).events = s.events := by
  unfold append; split <;> rfl
@[simp] theorem append_st (v : Byte) : (append v s).session.st = s.session.st := by
  unfold append; split <;> rfl
@[simp] theorem append_instr (v : Byte) : (append v s).session.instr = s.session.instr := by
  unfold append; split <;> rfl
@[simp] theorem append_addr (v : Byte) : (append v s).session.addr = s.session.addr := by
  unfold append; split <;> rfl
@[simp] theorem append_rsStart (v : Byte) : (append v s).session.rsStart = s.session.rsStart := by
  unfold append; split <;> rfl
@[simp] theorem append_rsPending (v : Byte) : (append v s).session.rsPending = s.session.rsPending := by
  unfold append; split <;> rfl
@[simp] theorem append_cancelSeen (v : Byte) : (append v s).session.cancelSeen = s.session.cancelSeen := by
  unfold append; split <;> rfl
@[simp] theorem flush_cfg : (flush s).cfg = s.cfg := by simp [flush, awaitWriteCycle]
@[simp] theorem flush_phase : (flush s).phase = s.phase := by simp [flush, awaitWriteCycle]
@[simp] theorem flush_ind : (flush s).ind = s.ind := by simp [flush, awaitWriteCycle]
@[simp] theorem flush_rx : (flush s).rx = s.rx := by simp [flush, awaitWriteCycle]
@[simp] theorem flush_conn : (flush s).conn = s.conn := by simp [flush, awaitWriteCycle]
@[simp] theorem flush_draws : (flush s).draws = s.draws := by simp [flush, awaitWriteCycle]
end Frames

/-- A data byte with room in the buffer (R133). -/
theorem append_room (v : Byte) (h : s.session.len < s.cfg.pageCap) :
    append v s = { s with session.buf := s.session.buf ++ [v] } := by simp [append, h]

/-- A data byte with the buffer full (R133, R145). -/
theorem append_full (v : Byte) (h : ¬ s.session.len < s.cfg.pageCap) :
    append v s = { s with session.ovf := true } := by
  unfold append; rw [if_neg h]

/-- The buffer never outgrows PAGE_CAP (10_state.md R47). -/
theorem append_len (v : Byte) (h : s.session.len ≤ s.cfg.pageCap) :
    (append v s).session.len ≤ s.cfg.pageCap := by
  unfold append; split
  · simp only [Session.len, List.length_append, List.length_singleton] at *; omega
  · exact h

/-- A chip keeps its environment through a write pulse. -/
@[simp] theorem programmed_env (c : Chip) (a : BusAddr) (d : Byte) : (c.programmed a d).env = c.env := by
  unfold Chip.programmed; split <;> rfl

/-- The cells after the flush's loop are the buffer's writes in order (R68). -/
theorem programmedFrom_cells (addr : Addr) (i : Nat) (ds : List Byte) (c : Chip) :
    (c.programmedFrom addr i ds).env = c.env ∧
    (c.programmedFrom addr i ds).cells = c.cellsAfter (writeCells addr i ds) := by
  induction ds generalizing i c with
  | nil => exact ⟨rfl, by unfold Chip.cellsAfter; cases c.env <;> rfl⟩
  | cons d ds ih =>
    obtain ⟨h1, h2⟩ := ih (i + 1) (c.programmed (busAddr (addr + BitVec.ofNat 16 i)) d)
    refine ⟨by rw [Chip.programmedFrom, h1, programmed_env], ?_⟩
    rw [Chip.programmedFrom, h2]
    obtain ⟨env, cells, busy⟩ := c
    cases env <;> rfl

/-- The idle posture outlasts the flush's loop. -/
theorem busAfterPrograms_idle (addr : Addr) (i : Nat) (ds : List Byte) (b : Bus) (h : b.Idle) :
    (busAfterPrograms addr i ds b).Idle := by
  induction ds generalizing i b with
  | nil => exact h
  | cons d ds ih => exact ih _ _ ⟨rfl, rfl, rfl⟩

/-- The flush's loop from the idle posture (R134). -/
theorem programFrom_idle (addr : Addr) (i : Nat) (ds : List Byte) (s : State) (h : s.bus.Idle) :
    programFrom addr i ds s =
      { s with
        bus := busAfterPrograms addr i ds s.bus
        chip := s.chip.programmedFrom addr i ds
        events := s.events ++ programsTrace addr i ds } := by
  induction ds generalizing i s with
  | nil => simp [programFrom, busAfterPrograms, Chip.programmedFrom, programsTrace]
  | cons d ds ih =>
    rw [programFrom, programByte_idle s h, ih _ _ ⟨rfl, rfl, rfl⟩]
    simp [busAfterPrograms, Chip.programmedFrom, programsTrace]

/-- flush from the idle posture (R134). -/
theorem flush_idle (h : s.bus.Idle) :
    flush s =
      { s with
        session := { s.session with buf := [], ovf := false, st := .waitInstruction }
        bus := busAfterPrograms s.session.addr 0 s.session.buf s.bus
        chip := { s.chip with
          cells := s.chip.cellsAfter (writeCells s.session.addr 0 s.session.buf), busy := false }
        tx := s.tx ++ [streamStatus s.session.ovf]
        events := s.events ++ programsTrace s.session.addr 0 s.session.buf ++
          [.delay .wc, .tx (streamStatus s.session.ovf)] } := by
  obtain ⟨he, hc⟩ := programmedFrom_cells s.session.addr 0 s.session.buf s.chip
  simp [flush, awaitWriteCycle, programFrom_idle _ _ _ _ h, delay_wc, record, respond, he, hc]

end Sys2Proof.Machine
end

