-- ==== Sys2Proof/Laws/Step.lean ====
section
/-! SUPPORT. What a step can do, said once (42_protocol.md R125, 60_exceptions.md R184). -/

namespace Sys2Proof.Machine

variable (s : State)

@[simp] theorem context_st : s.context.st = s.session.st := rfl
@[simp] theorem context_instr : s.context.instr = s.session.instr := rfl
@[simp] theorem context_rsPending : s.context.rsPending = s.session.rsPending := rfl
@[simp] theorem context_cancelSeen : s.context.cancelSeen = s.session.cancelSeen := rfl

/-- A step while GATED is one poll. -/
theorem step_gated (h : s.phase = .gated) : step s = .next (gatePoll s) := by
  unfold step; rw [h]

/-- A step in the RUN phase with a byte in Rx. -/
theorem step_byte (h : s.phase = .run) {b : Byte} {rest : List Byte} (hr : s.rx = b :: rest) :
    step s = match decode s.context b with
      | .ok i => exec i { s with rx := rest }
      | .error r => .next (runRejected r b { s with rx := rest }) := by
  unfold step takeByte; rw [h, hr] <;> rfl

/-- What a step can do: a poll of the gate, a wait, the instruction of the byte it takes, or the
transition of a byte that belongs to no command. -/
theorem step_cases {t : State} (h : step s = .next t) :
    (s.phase = .gated ∧ t = gatePoll s) ∨
    (s.phase = .run ∧ s.rx = [] ∧ t = s) ∨
    (s.phase = .run ∧ ∃ b rest i, s.rx = b :: rest ∧ decode s.context b = .ok i ∧
      exec i { s with rx := rest } = .next t) ∨
    (s.phase = .run ∧ ∃ b rest r, s.rx = b :: rest ∧ decode s.context b = .error r ∧
      t = runRejected r b { s with rx := rest }) := by
  cases hp : s.phase with
  | gated =>
    rw [step_gated s hp] at h
    exact .inl ⟨rfl, by simpa using h.symm⟩
  | run =>
    cases hr : s.rx with
    | nil =>
      simp only [step, takeByte, hp, hr] at h
      exact .inr (.inl ⟨rfl, rfl, by simpa using h.symm⟩)
    | cons b rest =>
      rw [step_byte s hp hr] at h
      simp only [hp] at h
      cases hd : decode s.context b with
      | ok i => rw [hd] at h; exact .inr (.inr (.inl ⟨rfl, b, rest, i, rfl, hd, h⟩))
      | error r =>
        rw [hd] at h
        exact .inr (.inr (.inr ⟨rfl, b, rest, r, rfl, hd, by simpa using h.symm⟩))

@[simp] theorem runSteps_zero : runSteps 0 s = .next s := rfl

/-- The first step of a run. -/
theorem runSteps_succ {t : State} (k : Nat) (h : step s = .next t) :
    runSteps (k + 1) s = runSteps k t := by simp [runSteps, h]

/-- A run is its first j steps and then the rest. -/
theorem runSteps_add {t : State} (j k : Nat) (h : runSteps j s = .next t) :
    runSteps (j + k) s = runSteps k t := by
  induction j generalizing s with
  | zero => cases h; rw [Nat.zero_add]
  | succ j ih =>
    rw [show j + 1 + k = (j + k) + 1 by omega]
    cases hs : step s with
    | next u =>
      rw [runSteps_succ s _ hs] at h ⊢
      exact ih u h
    | fault r => simp [runSteps, hs] at h
    | refused r => simp [runSteps, hs] at h

/-- The runs of the statements are the runs of the host's interface. -/
theorem runSteps_eq_core_run (k : Nat) : runSteps k s = Sys2Proof.core.run k s := by
  induction k generalizing s with
  | zero => rfl
  | succ k ih =>
    have hs : Sys2Proof.core.step s = step s := rfl
    simp only [runSteps, Host.Core.run, hs]
    cases step s with
    | next t => exact ih t
    | fault r => rfl
    | refused r => rfl

end Sys2Proof.Machine
end

