-- ==== Sys2Proof/Tests/Slice0.lean ====
section
/-! SUPPORT. The model's own tests: ill-formed terms refused, words written out from the spec's encoding decoded,
vectors of 95_test_vectors.md (their ids stand at each), and for every statement with hypotheses a state and
operands that meet them. -/

open Sys2Proof
open Sys2Proof.Machine

namespace Sys2Proof.Tests

/-! ### Helpers -/

/-- Parameters for tests: two bytes of buffer, an aliased sentinel. -/
def testCfg : Config := { pageCap := 2, pageCap_pos := by decide, sentinelAlias := true }

/-- Past the gate, waiting for a command, with these bytes delivered. -/
def ready (rx : List Byte) : State := { State.reset with cfg := testCfg, phase := .run, rx := rx }

/-- In the middle of a frame, with these cells in the chip. -/
def during (st : ProtoState) (instr : Byte) (addr : Addr) (cells : Memory) (rx : List Byte) : State :=
  { ready rx with
    session := { Session.reset with st := st, instr := instr, addr := addr }
    chip := { env := .reference, cells := cells, busy := false } }

/-- In a WRITE_STREAM data phase. -/
def streaming (addr : Addr) (buf : List Byte) (cancelSeen : Bool) (rx : List Byte) : State :=
  { during .waitData 0x02#8 addr [] rx with
    session := { Session.reset with
      st := .waitData, instr := 0x02#8, addr := addr, buf := buf, cancelSeen := cancelSeen } }

/-- A READ_STREAM whose end address is awaited at the given state. -/
def ranging (st : ProtoState) (start addr : Addr) (cells : Memory) (rx : List Byte) : State :=
  { during st 0x04#8 addr cells rx with
    session := { Session.reset with
      st := st, instr := 0x04#8, addr := addr, rsStart := start, rsPending := true } }

/-- The same state with SENTINEL_ALIAS false. -/
def distinct (s : State) : State := { s with cfg := { testCfg with sentinelAlias := false } }

/-- The same state with the chip in its internal write cycle. -/
def busy (s : State) : State := { s with chip := { s.chip with busy := true } }

/-- The same state in a free environment. -/
def free (s : State) : State := { s with chip := { s.chip with env := .free } }

/-- A view of the state after one step. -/
def after {α : Type} (f : State → α) (s : State) : Option α :=
  match step s with
  | .next t => some (f t)
  | .fault _ => none
  | .refused _ => none

/-- The idle bus with another direction and output-enable. -/
def posture (d : Dir) (oe : Bool) (s : State) : State := { s with bus := { Bus.reset with dir := d, oe := oe } }

/-! ### Ill-formed terms are refused -/

theorem test_wf_stream_data : Instr.wf (.writeStream (.data 0xFF#8)) = false := by decide
theorem test_wf_stream_terminator : Instr.wf (.writeStream (.terminator 0xFF#8)) = false := by decide
theorem test_wf_unknown : Instr.wf (.unknown 0x01#8) = false ∧ Instr.wf (.unknown 0xFF#8) = false := by decide
theorem test_wf_frame_stream : Frame.wf true (.writeStream 0x0000#16 [] 0xFF#8) = false := by decide
theorem test_wf_frame_sentinel :
    Frame.wf true (.readStream 0 0xFFFF#16 0x0000#16) = false ∧
    Frame.wf false (.readStream 1 0x0000#16 0x0000#16) = false := by decide
theorem test_wf_frame_unknown : Frame.wf true (.unknown 0xAA#8) = false := by decide

/-! ### Decoding: words written out from 30_encoding.md R76 to R83 -/

theorem test_decode_write_byte :
    decode ⟨.waitInstruction, 0x00#8, false, false⟩ 0b00000001#8 = .ok (.writeByte .opcode) ∧
    decode ⟨.waitAddrHigh, 0x01#8, false, false⟩ 0b10000000#8 = .ok (.writeByte (.addrHi 0x80#8)) ∧
    decode ⟨.waitAddrLow, 0x01#8, false, false⟩ 0b00010000#8 = .ok (.writeByte (.addrLo 0x10#8)) ∧
    decode ⟨.waitData, 0x01#8, false, false⟩ 0b11111111#8 = .ok (.writeByte (.data 0xFF#8)) := by decide
theorem test_decode_write_stream :
    decode ⟨.waitInstruction, 0x00#8, false, false⟩ 0b00000010#8 = .ok (.writeStream .opcode) ∧
    decode ⟨.waitAddrHigh, 0x02#8, false, false⟩ 0b11111111#8 = .ok (.writeStream (.addrHi 0xFF#8)) ∧
    decode ⟨.waitAddrLow, 0x02#8, false, false⟩ 0b00100000#8 = .ok (.writeStream (.addrLo 0x20#8)) ∧
    decode ⟨.waitData, 0x02#8, false, false⟩ 0b10101010#8 = .ok (.writeStream (.data 0xAA#8)) ∧
    decode ⟨.waitData, 0x02#8, false, false⟩ 0b11111111#8 = .ok (.writeStream .mark) ∧
    decode ⟨.waitData, 0x02#8, false, true⟩ 0b11111111#8 = .ok (.writeStream .escaped) ∧
    decode ⟨.waitData, 0x02#8, false, true⟩ 0b10101010#8 =
      .ok (.writeStream (.terminator 0xAA#8)) := by decide
theorem test_decode_read_byte :
    decode ⟨.waitInstruction, 0x00#8, false, false⟩ 0b00000011#8 = .ok (.readByte .opcode) ∧
    decode ⟨.waitAddrHigh, 0x03#8, false, false⟩ 0b10101010#8 = .ok (.readByte (.addrHi 0xAA#8)) ∧
    decode ⟨.waitAddrLow, 0x03#8, false, false⟩ 0b00000011#8 = .ok (.readByte (.addrLo 0x03#8)) := by decide
theorem test_decode_read_stream :
    decode ⟨.waitInstruction, 0x00#8, false, false⟩ 0b00000100#8 = .ok (.readStream .opcode) ∧
    decode ⟨.waitAddrHigh, 0x04#8, false, false⟩ 0b01111111#8 = .ok (.readStream (.startHi 0x7F#8)) ∧
    decode ⟨.waitAddrLow, 0x04#8, false, false⟩ 0b11111110#8 = .ok (.readStream (.startLo 0xFE#8)) ∧
    decode ⟨.waitAddrHigh, 0x04#8, true, false⟩ 0b10000000#8 = .ok (.readStream (.endHi 0x80#8)) ∧
    decode ⟨.waitAddrLow, 0x04#8, true, false⟩ 0b00000001#8 =
      .ok (.readStream (.endLo 0x01#8)) := by decide
theorem test_decode_status :
    decode ⟨.waitInstruction, 0x00#8, false, false⟩ 0b10101010#8 = .ok .handshake ∧
    decode ⟨.waitInstruction, 0x00#8, false, false⟩ 0b11111111#8 = .ok .cancel ∧
    decode ⟨.waitInstruction, 0x00#8, false, false⟩ 0b00000101#8 = .ok (.unknown 0x05#8) := by decide
theorem test_decode_rejects :
    decode ⟨.waitAddrLow, 0x07#8, false, false⟩ 0x34#8 = .error .orphanAddrLow ∧
    decode ⟨.waitData, 0x03#8, false, false⟩ 0x41#8 = .error .orphanData ∧
    decode ⟨.waitAddrHigh, 0x00#8, false, false⟩ 0x41#8 = .error .orphanAddrHigh ∧
    decode ⟨.readData, 0x03#8, false, false⟩ 0x41#8 = .error .heldReadData := by decide
theorem test_decode_table_words :
    decodeTableWord 8 0x01 = some (.writeByte .opcode) ∧
    decodeTableWord 8 0x02 = some (.writeStream .opcode) ∧
    decodeTableWord 8 0x03 = some (.readByte .opcode) ∧
    decodeTableWord 8 0x04 = some (.readStream .opcode) ∧
    decodeTableWord 8 0xAA = some .handshake ∧ decodeTableWord 8 0xFF = some .cancel ∧
    decodeTableWord 8 0x00 = some (.unknown 0x00#8) := by decide
/-- The examples of R140, R141, R150 and R151, written out whole; 30_encoding.md R90. -/
theorem test_decode_frames :
    decodeFrame true [0x01#8, 0x00#8, 0x10#8, 0x41#8] = .ok (.writeByte 0x0010#16 0x41#8, []) ∧
    decodeFrame true [0x02#8, 0x00#8, 0x10#8, 0x41#8, 0x42#8, 0xFF#8, 0xFF#8, 0x43#8, 0xFF#8, 0x00#8] =
      .ok (.writeStream 0x0010#16 [0x41#8, 0x42#8, 0xFF#8, 0x43#8] 0x00#8, []) ∧
    decodeFrame true [0x03#8, 0x00#8, 0x03#8, 0xAA#8] = .ok (.readByte 0x0003#16, [0xAA#8]) ∧
    decodeFrame true [0x04#8, 0x00#8, 0x00#8, 0x00#8, 0x04#8] =
      .ok (.readStream 0 0x0000#16 0x0004#16, []) := by decide
/-- RS5, RS6, RS9: where a READ_STREAM ends under each SENTINEL_ALIAS. -/
theorem test_decode_sentinel :
    decodeFrame true [0x04#8, 0xFF#8, 0xFF#8, 0x00#8, 0x04#8, 0x00#8, 0x08#8] =
      .ok (.readStream 1 0x0004#16 0x0008#16, []) ∧
    decodeFrame false [0x04#8, 0xFF#8, 0xFF#8, 0x00#8, 0x04#8, 0x00#8, 0x08#8] =
      .ok (.readStream 0 0xFFFF#16 0x0004#16, [0x00#8, 0x08#8]) ∧
    decodeFrame true [0x04#8, 0xFF#8, 0xFF#8, 0xFF#8, 0xFF#8] = .error .incomplete := by decide

/-! ### One step on a small state -/

/-- WB1, last step. -/
theorem test_write_byte :
    after (fun t => (t.cell 0x0010#15, t.session.st, t.events))
        (during .waitData 0x01#8 0x0010#16 [] [0x41#8]) =
      some (0x41#8, .waitInstruction,
        [.setA 0x0010#15, .setDir .output, .setD 0x41#8, .we true, .delay .wp, .we false, .delay .dh,
          .delay .wc, .tx 0x06#8]) := by decide
/-- WB2, last step: the top address bit has no line, and 0xFF is ordinary data. -/
theorem test_write_byte_alias :
    after (fun t => (t.cell 0x0010#15, t.session.addr, t.tx))
        (during .waitData 0x01#8 0x8010#16 [(0x0010, 0x00#8)] [0xFF#8]) =
      some (0xFF#8, 0x8010#16, [0x06#8]) := by decide
/-- WS5, last step: the address wraps mod 2^16 and mod 2^15. -/
theorem test_write_stream_wrap :
    after (fun t => (t.chip.cells, t.session.buf, t.tx))
        (streaming 0xFFFF#16 [0x41#8, 0x42#8] true [0x00#8]) =
      some ([(0x0000, 0x42#8), (0x7FFF, 0x41#8)], [], [0x06#8]) := by decide
/-- WS8, the discarded byte: PAGE_CAP = 2. -/
theorem test_write_stream_overflow :
    after (fun t => (t.session.buf, t.session.ovf, t.tx, t.events))
        (streaming 0x0000#16 [0x01#8, 0x02#8] false [0x03#8]) =
      some ([0x01#8, 0x02#8], true, [], []) := by decide
/-- RB1, last step. -/
theorem test_read_byte :
    after (fun t => (t.events, t.bus, t.session.st))
        (during .waitAddrLow 0x03#8 0x0000#16 [(0x0003, 0x28#8)] [0x03#8]) =
      some ([.setDir .input, .setA 0x0003#15, .oe true, .delay .acc, .sample 0x28#8, .oe false,
        .setDir .output, .tx 0x28#8], { Bus.reset with a := 0x0003#15 }, .waitInstruction) := by decide
/-- RB2, last step. -/
theorem test_read_byte_alias :
    after (fun t => (t.tx, t.session.addr, t.bus.a))
        (during .waitAddrLow 0x03#8 0xFF00#16 [(0x7FFF, 0x3C#8)] [0xFF#8]) =
      some ([0x3C#8], 0xFFFF#16, 0x7FFF#15) := by decide
/-- RS3 (E8), last step: a range across 0x7FFF and 0x8000. -/
theorem test_read_stream_across :
    after (fun t => (t.tx, t.session.st, t.session.rsPending, t.session.rsStart))
        (ranging .waitAddrLow 0x7FFE#16 0x8000#16
          [(0x0000, 0xA3#8), (0x0001, 0xA4#8), (0x7FFE, 0xA1#8), (0x7FFF, 0xA2#8)] [0x01#8]) =
      some ([0xA1#8, 0xA2#8, 0xA3#8, 0xA4#8], .waitInstruction, false, 0xFFFF#16) := by decide
/-- RS5, step 3: with SENTINEL_ALIAS a start of 0xFFFF is not retained. -/
theorem test_read_stream_sentinel :
    after (fun t => (t.session.rsStart, t.session.rsPending, t.session.st))
        (during .waitAddrLow 0x04#8 0xFF00#16 [] [0xFF#8]) =
      some (0xFFFF#16, false, .waitAddrHigh) := by decide
/-- P1. -/
theorem test_handshake : after (fun t => (t.tx, t.session, t.bus)) (ready [0xAA#8]) =
    some ([0x06#8], Session.reset, Bus.reset) := by decide
/-- P2. -/
theorem test_cancel : after (fun t => (t.events, t.session)) (ready [0xFF#8]) =
    some ([.tx 0x06#8], Session.reset) := by decide
/-- P6. -/
theorem test_unknown : after (fun t => (t.tx, t.session)) (ready [0xFE#8]) =
    some ([0x15#8], Session.reset) := by decide
/-- RC1. -/
theorem test_recovery :
    after (fun t => (t.session.addr, t.session.st, t.session.instr, t.events))
        (during .waitAddrLow 0x07#8 0x1200#16 [] [0x34#8]) =
      some (0x1234#16, .waitInstruction, 0x07#8, []) := by decide
/-- G1, G2: a poll without a connection, then one with it; the byte in Rx stays. -/
theorem test_gate :
    after (fun t => (t.phase, t.events, t.ind)) State.reset =
      some (.gated, [.delay .blink, .ind true], true) ∧
    after (fun t => (t.phase, t.rx, t.events)) { State.reset with conn := [true], rx := [0xAA#8] } =
      some (.run, [0xAA#8], []) := by decide
/-- A word placed where the core takes its next byte runs in the very next step. -/
theorem test_fetch_word :
    after (fun t => t.tx) (State.reset.withFetchWord 8 0xAA) = some [0x06#8] ∧
    after (fun t => (t.session.instr, t.session.st)) (State.reset.withFetchWord 8 0x04) =
      some (0x04#8, .waitAddrHigh) := by decide

/-- R190, R191, R59: a reset before the pulse leaves the cell, one within it ends the pulse, which writes it, and
leaves the chip's write cycle in progress; the core has its reset values. -/
theorem test_reset_within_a_write :
    (let s := during .waitData 0x01#8 0x0010#16 [] [0x41#8]
     ((s.resetDuring 3 []).chip, (s.resetDuring 4 []).chip, (s.resetDuring 8 []).chip.busy,
       (s.resetDuring 4 []).bus, (s.resetDuring 4 []).session, (s.resetDuring 4 []).tx)) =
      ({ env := .reference, cells := [], busy := false },
        { env := .reference, cells := [(0x0010, 0x41#8)], busy := true }, false,
        Bus.reset, Session.reset, []) := by decide
/-- G3: a reset before the flush leaves every cell; R190: a flush of two bytes cut after the first leaves the second's
cell. -/
theorem test_reset_within_a_flush :
    ((streaming 0xFFFF#16 [0x41#8, 0x42#8] true [0x00#8]).deviceReset []).chip.cells = [] ∧
    ((streaming 0xFFFF#16 [0x41#8, 0x42#8] true [0x00#8]).resetDuring 9 []).chip.cells =
      [(0x7FFF, 0x41#8)] := by decide

/-! ### The bus driver on hand-built sequences (95_test_vectors.md L2-B) -/

/-- B7: output-enable with the lines driven is a contention. -/
theorem test_contention : (setOutputEnable true (ready [])).faults =
    { busMisuse := false, busContention := true, busWeOe := false } := by decide
/-- B8: both faults of one primitive are recorded. -/
theorem test_two_faults : (setWriteEnable true (posture .input true (ready []))).faults =
    { busMisuse := true, busContention := false, busWeOe := true } := by decide
/-- B13, the worked example of R108, and B14, its last two calls swapped. -/
theorem test_posture_change :
    (let s := posture .output false (during .waitInstruction 0x00#8 0x0000#16 [(0x0002, 0x1E#8)] [])
     let r := readDataIn (setOutputEnable true (setAddress 0x0002#16 (setDataDirection .input s)))
     ((setDataDirection .output (setOutputEnable false r.2)).events,
       (setDataDirection .output (setOutputEnable false r.2)).faults,
       (setOutputEnable false (setDataDirection .output r.2)).faults)) =
      ([.setDir .input, .setA 0x0002#15, .oe true, .sample 0x1E#8, .oe false, .setDir .output],
        FaultSet.none, { busMisuse := false, busContention := true, busWeOe := false }) := by decide
/-- R60: a pulse whose lines are released before its end writes no cell and still begins the write cycle, so the
sample after it is no cell; no fault is recorded. -/
theorem test_pulse_released :
    (let s := setWriteEnable false (setDataDirection .input (setWriteEnable true
        (during .waitInstruction 0x00#8 0x0000#16 [(0x0000, 0x1E#8)] [])))
     let r := readDataIn (setOutputEnable true s)
     (s.chip.cells, s.chip.busy, r.2.draws, r.2.faults)) =
      ([(0x0000, 0x1E#8)], true, 1, FaultSet.none) := by decide
/-- B15: the pin is low when write-enable is asserted. -/
theorem test_pin : (setWriteEnable true (ready [])).bus.pins.weN = false := by decide

/-! ### Witnesses: a state and operands that meet each statement's hypotheses, one for each clause -/

theorem wit_CommandByteTable : commandContext.st = .waitInstruction ∧
    (0x00#8 : Byte) ∉ [0x01#8, 0x02#8, 0x03#8, 0x04#8, 0xAA#8, 0xFF#8] ∧
    (0x05#8 : Byte) ∉ [0x01#8, 0x02#8, 0x03#8, 0x04#8, 0xAA#8, 0xFF#8] ∧
    (0xFE#8 : Byte) ∉ [0x01#8, 0x02#8, 0x03#8, 0x04#8, 0xAA#8, 0xFF#8] := by decide
theorem wit_ByteEncodeThenDecode : Instr.wf (.writeStream (.terminator 0xFE#8)) = true ∧
    Context.expects ⟨.waitData, 0x02#8, false, true⟩ (.writeStream (.terminator 0xFE#8)) = true := by decide
theorem wit_ByteDecodeThenEncode :
    decode ⟨.waitData, 0x02#8, false, true⟩ 0xFE#8 = .ok (.writeStream (.terminator 0xFE#8)) := by decide
theorem wit_RejectedOnlyWithoutABranch :
    (∃ r, decode ⟨.waitAddrHigh, 0x05#8, false, false⟩ 0x00#8 = .error r) ∧
    (∃ r, decode ⟨.waitData, 0x04#8, false, false⟩ 0x00#8 = .error r) :=
  ⟨⟨_, rfl⟩, ⟨_, rfl⟩⟩
theorem wit_FrameEncodeThenDecode : Frame.wf true (.readStream 1 0xFFFE#16 0xFFFF#16) = true ∧
    Frame.wf false (.readStream 0 0xFFFF#16 0x0000#16) = true ∧
    Frame.wf true (.writeStream 0xFFFF#16 [0xFF#8] 0xFE#8) = true ∧
    Frame.wf false (.unknown 0x05#8) = true := by decide
theorem wit_FrameDecodeThenEncode :
    decodeFrame true [0x02#8, 0x00#8, 0x00#8, 0xFF#8, 0x00#8, 0xAA#8] =
      .ok (.writeStream 0x0000#16 [] 0x00#8, [0xAA#8]) := by decide
/-- A read with a byte behind it, a start of 0xFFFF with SENTINEL_ALIAS false, and a stream. -/
theorem wit_FrameEndsWhereTheMachineReturns :
    (ready [0x03#8, 0x00#8, 0x03#8, 0xAA#8]).Launch ∧
    (ready [0x03#8, 0x00#8, 0x03#8, 0xAA#8]).session.st = .waitInstruction ∧
    Frame.wf true (.readByte 0x0003#16) = true ∧
    (ready [0x03#8, 0x00#8, 0x03#8, 0xAA#8]).rx = (Frame.readByte 0x0003#16).bytes ++ [0xAA#8] ∧
    (distinct (ready [0x04#8, 0xFF#8, 0xFF#8, 0x00#8, 0x04#8, 0x00#8])).Launch ∧
    Frame.wf false (.readStream 0 0xFFFF#16 0x0004#16) = true ∧
    (distinct (ready [0x04#8, 0xFF#8, 0xFF#8, 0x00#8, 0x04#8, 0x00#8])).rx =
      (Frame.readStream 0 0xFFFF#16 0x0004#16).bytes ++ [0x00#8] ∧
    Frame.wf true (.writeStream 0x0010#16 [0xFF#8] 0x00#8) = true ∧
    (ready [0x02#8, 0x00#8, 0x10#8, 0xFF#8, 0xFF#8, 0xFF#8, 0x00#8]).rx =
      (Frame.writeStream 0x0010#16 [0xFF#8] 0x00#8).bytes ++ [] ∧
    1 < (Frame.readByte 0x0003#16).bytes.length := by
  refine ⟨by decide, by decide, by decide, by decide, by decide, by decide, by decide, by decide,
    by decide, by decide⟩
theorem wit_StepRunsTheDecodedInstruction : (ready [0x01#8]).phase = .run ∧
    (ready [0x01#8]).rx = 0x01#8 :: [] ∧
    decode (ready [0x01#8]).context 0x01#8 = .ok (.writeByte .opcode) := by decide
theorem wit_OneByteAStepWithoutLookahead : (ready []).phase = .run ∧ (ready []).rx = [] ∧
    ∃ t, step { ready [] with rx := [0x03#8, 0x00#8] } = .next t := ⟨rfl, rfl, ⟨_, rfl⟩⟩
theorem wit_WaitInstructionRule : (ready [0x04#8]).phase = .run ∧ (ready [0x04#8]).rx = 0x04#8 :: [] ∧
    (ready [0x04#8]).session.st = .waitInstruction ∧ (ready [0x05#8]).rx = 0x05#8 :: [] ∧
    (ready [0xAA#8]).rx = 0xAA#8 :: [] := by decide
theorem wit_WaitAddrHighRule : (during .waitAddrHigh 0x07#8 0x0000#16 [] [0xFF#8]).phase = .run ∧
    (during .waitAddrHigh 0x07#8 0x0000#16 [] [0xFF#8]).session.st = .waitAddrHigh ∧
    (during .waitAddrHigh 0x07#8 0x0000#16 [] [0xFF#8]).rx = 0xFF#8 :: [] := by decide
/-- One state for each clause: write, read, a range's start, a range's end. -/
theorem wit_WaitAddrLowRule :
    (∀ i ∈ [0x01#8, 0x02#8, 0x03#8, 0x04#8],
      (during .waitAddrLow i 0xFF00#16 [] [0xFF#8]).phase = .run ∧
      (during .waitAddrLow i 0xFF00#16 [] [0xFF#8]).rx = 0xFF#8 :: [] ∧
      (during .waitAddrLow i 0xFF00#16 [] [0xFF#8]).session.st = .waitAddrLow ∧
      (during .waitAddrLow i 0xFF00#16 [] [0xFF#8]).session.instr = i) ∧
    (during .waitAddrLow 0x04#8 0xFF00#16 [] [0xFF#8]).session.rsPending = false ∧
    (ranging .waitAddrLow 0x0000#16 0x0000#16 [] [0x00#8]).session.rsPending = true ∧
    (ranging .waitAddrLow 0x0000#16 0x0000#16 [] [0x00#8]).session.instr = 0x04#8 := by decide
theorem wit_WaitDataRule :
    (during .waitData 0x01#8 0x0000#16 [] [0xFF#8]).phase = .run ∧
    (during .waitData 0x01#8 0x0000#16 [] [0xFF#8]).session.instr = 0x01#8 ∧
    (∀ c ∈ [true, false], ∀ b ∈ [0xFE#8, 0xFF#8],
      (streaming 0x0000#16 [] c [b]).session.cancelSeen = c ∧
      (streaming 0x0000#16 [] c [b]).session.st = .waitData ∧
      (streaming 0x0000#16 [] c [b]).session.instr = 0x02#8 ∧
      (streaming 0x0000#16 [] c [b]).rx = b :: []) := by decide
theorem wit_RecoveryRule :
    (during .waitAddrLow 0x05#8 0x1200#16 [] [0x34#8]).phase = .run ∧
    (during .waitAddrLow 0x05#8 0x1200#16 [] [0x34#8]).rx = 0x34#8 :: [] ∧
    (0x05#8 : Byte) ∉ [0x01#8, 0x02#8, 0x03#8, 0x04#8] ∧
    (during .waitData 0x03#8 0x0000#16 [] [0x41#8]).session.st = .waitData ∧
    (0x03#8 : Byte) ∉ [0x01#8, 0x02#8] := by decide
theorem wit_WriteByteDataResult : (during .waitData 0x01#8 0xFFFF#16 [] []).bus.Idle := by decide
theorem wit_StreamTerminatorResult : (streaming 0xFFFF#16 [0x01#8, 0x02#8] true []).bus.Idle := by decide
theorem wit_ReadByteResult :
    (during .waitAddrLow 0x03#8 0xFF00#16 [(0x7FFF, 0x3C#8)] []).bus.Idle ∧
    0xFFFF#16 = (0xFF00#16).extractLsb' 8 8 ++ 0xFF#8 ∧
    (during .waitAddrLow 0x03#8 0xFF00#16 [(0x7FFF, 0x3C#8)] []).chip.env = .reference ∧
    (during .waitAddrLow 0x03#8 0xFF00#16 [(0x7FFF, 0x3C#8)] []).chip.busy = false ∧
    (during .waitAddrLow 0x03#8 0xFF00#16 [(0x7FFF, 0x3C#8)] []).cell (busAddr 0xFFFF#16) =
      0x3C#8 := by decide
/-- The last address of the range's order, and samples that no rule determines. -/
theorem wit_ReadStreamEndResult : (ranging .waitAddrLow 0xFFFF#16 0xFF00#16 [] []).bus.Idle ∧
    0xFFFF#16 = (0xFF00#16).extractLsb' 8 8 ++ 0xFF#8 ∧
    (ranging .waitAddrLow 0xFFFF#16 0xFF00#16 [] []).session.rsStart ≤ 0xFFFF#16 ∧
    1 = (0xFFFF#16).toNat - (0xFFFF#16).toNat + 1 ∧
    (free (ranging .waitAddrLow 0x7FFF#16 0x8000#16 [] [])).bus.Idle ∧
    (free (ranging .waitAddrLow 0x7FFF#16 0x8000#16 [] [])).session.rsStart ≤ 0x8000#16 ∧
    2 = (0x8000#16).toNat - (0x7FFF#16).toNat + 1 ∧
    (free (ranging .waitAddrLow 0x7FFF#16 0x8000#16 [] [])).drawsAfter 2 = 2 ∧
    (free (ranging .waitAddrLow 0x7FFF#16 0x8000#16 [] [])).samplesFrom 0 0x7FFF 2 =
      [Config.freeSample 0, Config.freeSample 1] := by
  refine ⟨by decide, by decide, by decide, by decide, by decide, by decide, by decide, by decide, rfl⟩
theorem wit_ReadStreamEmptyRange : 0x0004#16 = (0x0000#16).extractLsb' 8 8 ++ 0x04#8 ∧
    0x0004#16 < (ranging .waitAddrLow 0x0005#16 0x0000#16 [] []).session.rsStart := by decide
/-- 0xFF at WAIT_ADDR_HIGH, and a context of each data phase. -/
theorem wit_StatusCommandsResult :
    decode ⟨.waitAddrHigh, 0x02#8, false, false⟩ 0xFF#8 = .ok (.writeStream (.addrHi 0xFF#8)) ∧
    (Context.mk .waitData 0x01#8 false false).st = .waitData ∧
    (Context.mk .waitData 0x02#8 false true).st = .waitData ∧
    (Context.mk .waitData 0x02#8 false true).instr = 0x02#8 := by decide
theorem wit_WriteByteWholeFrame : (ready [0x01#8, 0x80#8, 0x10#8, 0xFF#8]).Launch ∧
    (ready [0x01#8, 0x80#8, 0x10#8, 0xFF#8]).session.st = .waitInstruction ∧
    (ready [0x01#8, 0x80#8, 0x10#8, 0xFF#8]).rx =
      [0x01#8, (0x8010#16).extractLsb' 8 8, (0x8010#16).extractLsb' 0 8, 0xFF#8] ++ [] := by decide
/-- One byte more than PAGE_CAP holds, and one that fits. -/
theorem wit_WriteStreamWholeFrame :
    (ready (Frame.writeStream 0x0000#16 [0x01#8, 0xFF#8, 0x03#8] 0x00#8).bytes).Launch ∧
    (0x00#8 : Byte) ≠ 0xFF#8 ∧
    (ready (Frame.writeStream 0x0000#16 [0x01#8, 0xFF#8, 0x03#8] 0x00#8).bytes).session.st =
      .waitInstruction ∧
    [0x01#8, 0xFF#8] = [0x01#8, 0xFF#8, 0x03#8].take testCfg.pageCap ∧
    (ready (Frame.writeStream 0xFFFF#16 [0xFF#8] 0x00#8).bytes).Launch :=
  ⟨by decide, by decide, by decide, by decide, by decide⟩
/-- The addressed cell, and a sample that no rule determines. -/
theorem wit_ReadByteWholeFrame : (ready [0x03#8, 0xFF#8, 0xFF#8]).Launch ∧
    (ready [0x03#8, 0xFF#8, 0xFF#8]).session.st = .waitInstruction ∧
    (ready [0x03#8, 0xFF#8, 0xFF#8]).chip.env = .reference ∧
    (ready [0x03#8, 0xFF#8, 0xFF#8]).chip.busy = false ∧
    (ready [0x03#8, 0xFF#8, 0xFF#8]).rx =
      [0x03#8, (0xFFFF#16).extractLsb' 8 8, (0xFFFF#16).extractLsb' 0 8] ++ [] ∧
    (busy (ready [0x03#8, 0xFF#8, 0xFF#8])).Launch ∧
    Config.freeSample 0 = (busy (ready [0x03#8, 0xFF#8, 0xFF#8])).sampleAt 0 (busAddr 0xFFFF#16) :=
  ⟨by decide, by decide, by decide, by decide, by decide, by decide, rfl⟩
/-- A start that is not retained before one that is; a range that is not empty and one that is; a start of 0xFFFF
with SENTINEL_ALIAS false; a free environment. -/
theorem wit_ReadStreamWholeFrame :
    (ready (Frame.readStream 1 0x0004#16 0x0008#16).bytes).Launch ∧
    (ready (Frame.readStream 1 0x0004#16 0x0008#16).bytes).session.st = .waitInstruction ∧
    (ready (Frame.readStream 1 0x0004#16 0x0008#16).bytes).chip.env = .reference ∧
    Frame.wf testCfg.sentinelAlias (.readStream 1 0x0004#16 0x0008#16) = true ∧
    0x0004#16 ≤ 0x0008#16 ∧
    (ready (Frame.readStream 0 0x0005#16 0x0004#16).bytes).Launch ∧
    Frame.wf testCfg.sentinelAlias (.readStream 0 0x0005#16 0x0004#16) = true ∧
    (distinct (ready (Frame.readStream 0 0xFFFF#16 0xFFFF#16).bytes)).Launch ∧
    Frame.wf (distinct (ready (Frame.readStream 0 0xFFFF#16 0xFFFF#16).bytes)).cfg.sentinelAlias
      (.readStream 0 0xFFFF#16 0xFFFF#16) = true ∧
    (free (ready (Frame.readStream 0 0x0004#16 0x0004#16).bytes)).Launch ∧
    [Config.freeSample 0] =
      (free (ready (Frame.readStream 0 0x0004#16 0x0004#16).bytes)).samplesFrom 0 0x0004 1 :=
  ⟨by decide, by decide, by decide, by decide, by decide, by decide, by decide, by decide, by decide,
    by decide, rfl⟩
theorem wit_StatusCommandsAreIdempotent : (ready [0xAA#8, 0xFF#8, 0x00#8, 0x01#8]).phase = .run ∧
    (ready [0xAA#8, 0xFF#8, 0x00#8, 0x01#8]).session.st = .waitInstruction ∧
    (ready [0xAA#8, 0xFF#8, 0x00#8, 0x01#8]).rx = [0xAA#8, 0xFF#8, 0x00#8] ++ [0x01#8] ∧
    ∀ b ∈ [0xAA#8, 0xFF#8, 0x00#8], b ∉ [0x01#8, 0x02#8, 0x03#8, 0x04#8] := by decide
/-- A launch state in the middle of a frame, with a byte in Rx and without. -/
theorem wit_FourBytesLeadBack : (during .waitAddrHigh 0x04#8 0x0000#16 [] []).Launch ∧
    (streaming 0x0000#16 [0x41#8] false [0xFF#8]).Launch := ⟨by decide, by decide⟩
theorem wit_InputsAndParametersStay : ∃ t, exec .handshake (ready []) = .next t := ⟨_, rfl⟩
theorem wit_SessionFrame :
    (∃ t, exec .handshake (ready []) = .next t) ∧
    Claims.isOpcode .handshake = false ∧ Claims.isAddrByte .handshake = false ∧
    Claims.isStreamByte .handshake = false ∧ Claims.isRangeLow .handshake = false ∧
    ∀ d, Instr.handshake ≠ .writeByte (.data d) :=
  ⟨⟨_, rfl⟩, rfl, rfl, rfl, rfl, fun _ h => nomatch h⟩
theorem wit_NoOperationMovesNoLine : (∃ t, exec (.writeStream .mark) (ready []) = .next t) ∧
    Claims.operates (.writeStream .mark) = false := ⟨⟨_, rfl⟩, rfl⟩
theorem wit_WriteByteStoreFrame : (during .waitData 0x01#8 0xFFFF#16 [(0x0000, 0x00#8)] []).chip.cells.wf ∧
    0x0000#15 ≠ busAddr 0xFFFF#16 ∧
    ∃ t, exec (.writeByte (.data 0xFF#8)) (during .waitData 0x01#8 0xFFFF#16 [(0x0000, 0x00#8)] []) =
      .next t := ⟨by decide, by decide, ⟨_, rfl⟩⟩
theorem wit_StreamStoreFrame : (streaming 0xFFFF#16 [0x41#8, 0x42#8] true []).chip.cells.wf ∧
    (∀ i, i < 2 → 0x0001#15 ≠ busAddr (0xFFFF#16 + BitVec.ofNat 16 i)) ∧
    ∃ t, exec (.writeStream (.terminator 0x00#8)) (streaming 0xFFFF#16 [0x41#8, 0x42#8] true []) =
      .next t := ⟨by decide, by decide, ⟨_, rfl⟩⟩
theorem wit_ReadFormsFrame :
    (∃ t, exec (.readByte (.addrLo 0xFF#8)) (during .waitAddrLow 0x03#8 0xFF00#16 [] []) = .next t) ∧
    ∃ t, exec (.readStream (.endLo 0x04#8)) (ranging .waitAddrLow 0x0004#16 0x0000#16 [] []) = .next t :=
  ⟨⟨_, rfl⟩, ⟨_, rfl⟩⟩
/-- A status byte, and a byte programmed in a step that took one from Rx. -/
theorem wit_EventsAreOnlyAppended : (∃ t, step (ready [0xAA#8]) = .next t) ∧
    ∃ t, step (during .waitData 0x01#8 0x0010#16 [] [0x41#8]) = .next t := ⟨⟨_, rfl⟩, ⟨_, rfl⟩⟩
theorem wit_FaultsAreNeverCleared :
    (∃ t, step (posture .output true (ready [0xAA#8])) = .next t) ∧
    (setOutputEnable true (ready [])).faults.busContention = true ∧
    (setWriteEnable true (posture .input true (ready []))).faults.busMisuse = true ∧
    (setWriteEnable true (posture .input true (ready []))).faults.busWeOe = true :=
  ⟨⟨_, rfl⟩, by decide, by decide, by decide⟩
/-- The read posture out of the write cycle, and within it. -/
theorem wit_PrimitivesWriteTheirField :
    (∀ s ∈ [posture .input true (ready [])],
      s.chip.env = .reference ∧ s.bus.dir = .input ∧ s.bus.oe = true ∧ s.bus.we = false ∧
        s.chip.busy = false) ∧
    ∀ s ∈ [busy (posture .input true (ready [])), free (posture .input true (ready [])), ready []],
      ¬ (s.chip.env = .reference ∧ s.bus.dir = .input ∧ s.bus.oe = true ∧ s.bus.we = false ∧
        s.chip.busy = false) := by decide
theorem wit_DirectionIsExplicit : (posture .input false (ready [])).bus.dir = .input ∧
    (ready []).bus.dir = .output := by decide
/-- A posture for each disjunct, with the misuse and without it. -/
theorem wit_PrimitiveFaults :
    (true = ((posture .input true (ready [])).bus.dir == .input)) ∧
    (true = (true && (posture .input true (ready [])).bus.dir == .input)) ∧
    (false = ((ready []).bus.dir == .input)) ∧ (true = ((ready []).bus.dir == .output)) := by decide
theorem wit_PinRelation : (posture .input true (ready [])).bus.dir = .input ∧
    (ready []).bus.dir = .output := by decide
theorem wit_ProgramByteNeitherReadsNorWaits :
    (posture .input true (ready [])).chip.env = .reference := by decide
theorem wit_OperationsKeepTheIdlePosture : (streaming 0xFFFF#16 [0x41#8] true []).bus.Idle ∧
    (∃ t, t = programByte 0xFF#8 0xFFFF#16 (ready [])) ∧ ∃ t, t = readRange 0x0001#16 0x0000#16 (ready []) :=
  ⟨by decide, ⟨_, rfl⟩, ⟨_, rfl⟩⟩
theorem wit_ProgramThenReadRoundTrip : (ready []).bus.Idle ∧ (ready []).chip.env = .reference ∧
    (ready []).chip.cells.wf := by decide
/-- The idle posture, and a pulse asserted in it whose lines are then released, with no fault recorded. -/
theorem wit_ReadInTheWriteCycleIsFree : (ready []).bus.Idle ∧ (ready []).chip.env = .reference ∧
    (setDataDirection .input (setWriteEnable true (ready []))).bus.we = true ∧
    (setDataDirection .input (setWriteEnable true (ready []))).chip.env = .reference ∧
    (setDataDirection .input (setWriteEnable true (ready []))).faults = FaultSet.none := by decide
theorem wit_ReadRangeCountAndOrder : (ready []).bus.Idle ∧ (ready []).chip.env = .reference ∧
    (ready []).chip.busy = false ∧ 0xFFFF#16 ≤ 0xFFFF#16 := by decide
theorem wit_HighRangesReduce : 0x8000#16 ≤ 0x8000#16 ∧ 0x8000#16 ≤ 0xFFFF#16 := by decide
theorem wit_FlushedBytesLand :
    (streaming 0xFFFF#16 [0x41#8, 0x42#8] true []).bus.Idle ∧
    (streaming 0xFFFF#16 [0x41#8, 0x42#8] true []).chip.env = .reference ∧
    (streaming 0xFFFF#16 [0x41#8, 0x42#8] true []).chip.cells.wf ∧
    1 < (streaming 0xFFFF#16 [0x41#8, 0x42#8] true []).session.len ∧
    (streaming 0xFFFF#16 [0x41#8, 0x42#8] true []).session.len ≤ 32768 ∧
    (∃ t, exec (.writeStream (.terminator 0x00#8)) (streaming 0xFFFF#16 [0x41#8, 0x42#8] true []) =
      .next t) ∧
    (streaming 0xFFFF#16 [0x41#8, 0x42#8] true [0x00#8]).phase = .run ∧
    (streaming 0xFFFF#16 [0x41#8, 0x42#8] true [0x00#8]).session.st = .waitData ∧
    (streaming 0xFFFF#16 [0x41#8, 0x42#8] true [0x00#8]).session.instr = 0x02#8 ∧
    (streaming 0xFFFF#16 [0x41#8, 0x42#8] true [0x00#8]).session.cancelSeen = true ∧
    (0x00#8 : Byte) ≠ 0xFF#8 ∧
    (streaming 0xFFFF#16 [0x41#8, 0x42#8] true [0x00#8]).rx = 0x00#8 :: [] :=
  ⟨by decide, by decide, by decide, by decide, by decide, ⟨_, rfl⟩, by decide, by decide, by decide,
    by decide, by decide, by decide⟩
/-- The invariant in the middle of a stream and of a range, with a step from each; with a write cycle in progress
and without. -/
theorem wit_StepKeepsTheInvariant :
    (streaming 0xFFFF#16 [0x41#8, 0x42#8] true [0x00#8]).Inv ∧
    (streaming 0xFFFF#16 [0x41#8, 0x42#8] true [0x00#8]).Settled ∧
    (busy (streaming 0xFFFF#16 [0x41#8, 0x42#8] true [0x00#8])).Inv ∧
    (ranging .waitAddrLow 0x7FFE#16 0x8000#16 [(0x7FFF, 0xA2#8)] [0x01#8]).Inv ∧
    (∃ t, step (streaming 0xFFFF#16 [0x41#8, 0x42#8] true [0x00#8]) = .next t) ∧
    ∃ t, step (ranging .waitAddrLow 0x7FFE#16 0x8000#16 [(0x7FFF, 0xA2#8)] [0x01#8]) = .next t :=
  ⟨by decide, by decide, by decide, by decide, ⟨_, rfl⟩, ⟨_, rfl⟩⟩
theorem wit_NeverGatedAgain : (ready [0xAA#8]).phase = .run ∧ ∃ t, runSteps 2 (ready [0xAA#8]) = .next t :=
  ⟨rfl, ⟨_, rfl⟩⟩
theorem wit_InstrWrittenOnlyByCommands : ∃ t, step (ready [0x04#8]) = .next t ∧
    t.session.instr ≠ (ready [0x04#8]).session.instr := ⟨_, rfl, by decide⟩
theorem wit_ChipNeverSteersTheProtocol : Claims.AlikeButForTheChip (ready [0x01#8])
    { posture .input true (ready [0x01#8]) with
      chip := { env := .free, cells := [(0x0000, 0x00#8)], busy := true } } := by
  unfold Claims.AlikeButForTheChip; decide
theorem wit_WriteLatency : (streaming 0x0000#16 [0x41#8, 0x42#8] true []).bus.Idle := by decide
theorem wit_ReadLatency :
    (ranging .waitAddrLow 0x0004#16 0x0000#16 [(0x0004, 0x77#8)] []).bus.Idle ∧
    ∃ t, exec (.readStream (.endLo 0x04#8))
        (ranging .waitAddrLow 0x0004#16 0x0000#16 [(0x0004, 0x77#8)] []) = .next t ∧
      stepEvents (ranging .waitAddrLow 0x0004#16 0x0000#16 [(0x0004, 0x77#8)] []) t =
        [.setDir .input, .setA 0x0004#15, .oe true, .delay .acc, .sample 0x77#8] ++ [.tx 0x77#8] ++
          [.oe false, .setDir .output] := ⟨by decide, _, rfl, by decide⟩
theorem wit_GatePoll : State.reset.phase = .gated ∧ State.reset.conn = [] ∧
    { State.reset with conn := [true] }.conn = true :: [] ∧
    { State.reset with conn := [false, true] }.conn = false :: [true] := by decide
theorem wit_GatePassesAtTheFirstConnection :
    { State.reset with conn := [false, true] }.phase = .gated ∧
    { State.reset with conn := [false, true] }.conn = List.replicate 1 false ++ true :: [] := by decide
/-- A state of the middle of a stream, an asserted pulse, and a step with all its events. -/
theorem wit_DeviceResetRestoresTheCore : (streaming 0x0000#16 [0x41#8] true [0x00#8]).Inv ∧
    (setWriteEnable true (ready [])).bus.we = true ∧
    (setWriteEnable true (ready [])).bus.dir = .output ∧
    (setWriteEnable true (ready [])).bus.oe = false ∧
    (setWriteEnable true (ready [])).chip.env = .reference ∧
    (∃ t, step (streaming 0x0000#16 [0x41#8] true [0x00#8]) = .next t ∧
      (stepEvents (streaming 0x0000#16 [0x41#8] true [0x00#8]) t).length ≤ 9) :=
  ⟨by decide, by decide, by decide, by decide, by decide, ⟨_, rfl, by decide⟩⟩
end Sys2Proof.Tests
end

section
/-! PROOFS. Wire-address aliasing (20_memory.md R51): an operation sees of an address only its bus address. -/

namespace Sys2Proof.Machine

variable {s : State} {a b : Addr}

theorem busAddr_toNat (a : Addr) : (busAddr a).toNat = a.toNat % 2 ^ 15 := by
  simp only [busAddr, BitVec.toNat_setWidth]

/-- Bit 15 has no line, so toggling it leaves the bus address. -/
theorem busAddr_add_high (a : Addr) : busAddr (a + 0x8000#16) = busAddr a := by
  apply BitVec.eq_of_toNat_eq
  have hadd : (a + 0x8000#16).toNat = (a.toNat + 0x8000) % 2 ^ 16 := BitVec.toNat_add ..
  rw [busAddr_toNat, busAddr_toNat, hadd]
  omega

/-- Of the operations on the bus, only setAddress reads the address, and it drops bit 15 (R96). -/
theorem setAddress_congr (h : busAddr a = busAddr b) : setAddress a s = setAddress b s := by
  simp only [setAddress, h]

theorem programByte_congr (h : busAddr a = busAddr b) (d : Byte) :
    programByte d a s = programByte d b s := by
  simp only [programByte, setAddress_congr h]

theorem readByte_congr (h : busAddr a = busAddr b) : readByte a s = readByte b s := by
  simp only [readByte, setAddress_congr h]

/-- Settles O47: programByte and readByte depend on the address through busAddr alone, in every posture, and
busAddr is a mod 2^15. -/
theorem aliasedAddressesAreOneCell : Obligations.AliasedAddressesAreOneCell := by
  intro s a d
  have hbus : busAddr (a + 0x8000#16) = busAddr a := busAddr_add_high a
  exact ⟨busAddr_toNat a, hbus, programByte_congr hbus d, readByte_congr hbus⟩

end Sys2Proof.Machine
end

section
/-! PROOFS. The opcode map of the command byte (30_encoding.md R87). -/

namespace Sys2Proof

/-- At WAIT_INSTRUCTION no other part of the context is looked at (R76). -/
theorem decode_waitInstruction {c : Context} (h : c.st = .waitInstruction) (b : Byte) :
    decode c b = .ok (decodeCommand b) := by
  simp only [decode, h]

/-- The command bytes are the six that R87 lists. -/
theorem isCommandByte_eq_false_iff (b : Byte) :
    isCommandByte b = false ↔ b ∉ [0x01#8, 0x02#8, 0x03#8, 0x04#8, 0xAA#8, 0xFF#8] := by
  simp [isCommandByte, opWriteByte, opWriteStream, opReadByte, opReadStream, opHandshake, opCancel, and_assoc]

/-- Settles O1: at WAIT_INSTRUCTION the decoder is the opcode map, whose six rows compute and whose default row
answers every other byte. -/
theorem commandByteTable : Obligations.CommandByteTable := by
  intro c hst
  have hmap : ∀ b, decode c b = .ok (decodeCommand b) := decode_waitInstruction hst
  refine ⟨hmap _, hmap _, hmap _, hmap _, hmap _, hmap _, fun b hb => ?_⟩
  rw [hmap, decodeCommand_unknown b ((isCommandByte_eq_false_iff b).mpr hb)]

end Sys2Proof
end

section
/-! PROOFS. A byte programmed and waited for is read back (41_eeprom_ops.md R123). -/

namespace Sys2Proof.Machine

variable {s : State}

/-- The lines a programByte leaves: nothing asserted, the data lines driven (R122). -/
theorem busAfterProgram_idle (d : Byte) (a : Addr) : (busAfterProgram d a).Idle := ⟨rfl, rfl, rfl⟩

/-- A write pulse in the reference environment changes the addressed cell and begins the write cycle (R59, R60). -/
theorem programmed_reference {c : Chip} (h : c.env = .reference) (a : BusAddr) (d : Byte) :
    c.programmed a d = { c with cells := c.cells.write a.toNat d, busy := true } := by
  simp only [Chip.programmed, h]

/-- awaitWriteCycle ends the chip's internal write cycle and leaves its cells (R60, R111). -/
theorem awaitWriteCycle_chip : (awaitWriteCycle s).chip = { s.chip with busy := false } := by
  rw [awaitWriteCycle, delay_wc]
  rfl

/-- From the idle posture, in the reference environment and out of the write cycle, readByte returns the addressed
cell (R58, R116). -/
theorem readByte_idle_eq_cell (hidle : s.bus.Idle) (henv : s.chip.env = .reference)
    (hbusy : s.chip.busy = false) (a : Addr) : (readByte a s).1 = s.cell (busAddr a) := by
  rw [readByte_idle s hidle]
  simp [State.sampleAt, State.determined, henv, hbusy]

/-- The lines after a programByte and its wait are idle again (R111, R122). -/
theorem programByte_awaited_idle (hidle : s.bus.Idle) (d : Byte) (a : Addr) :
    (awaitWriteCycle (programByte d a s)).bus.Idle := by
  rw [awaitWriteCycle, delay_bus, programByte_idle s hidle]
  exact busAfterProgram_idle d a

/-- The chip after a programByte and its wait: the addressed cell written, no write cycle in progress. -/
theorem programByte_awaited_chip (hidle : s.bus.Idle) (henv : s.chip.env = .reference) (d : Byte) (a : Addr) :
    (awaitWriteCycle (programByte d a s)).chip =
      { s.chip with cells := s.chip.cells.write (busAddr a).toNat d, busy := false } := by
  rw [awaitWriteCycle_chip, programByte_idle s hidle, programmed_reference henv]

/-- Settles O44: after the wait the bus is idle and no write cycle is in progress, so readByte returns the addressed
cell, which is the one programByte wrote. -/
theorem programThenReadRoundTrip : Obligations.ProgramThenReadRoundTrip := by
  intro s a d hidle henv hwf
  have hbus := programByte_awaited_idle hidle d a
  have hchip := programByte_awaited_chip hidle henv d a
  calc (readByte a (awaitWriteCycle (programByte d a s))).1
      _ = (awaitWriteCycle (programByte d a s)).cell (busAddr a) :=
        readByte_idle_eq_cell hbus (by rw [hchip, henv]) (by rw [hchip]) a
      _ = (s.chip.cells.write (busAddr a).toNat d).read (busAddr a).toNat := by rw [State.cell, hchip]
      _ = d := by rw [read_write _ _ _ _ hwf.1, if_pos rfl]

end Sys2Proof.Machine
end

section
/-! PROOFS. The byte of a step in its place (30_encoding.md R75, 42_protocol.md R125): WAIT_INSTRUCTION (R127) and
WAIT_DATA (R132). -/

namespace Sys2Proof

variable {c : Context}

/-- WRITE_BYTE's one data byte (R132). -/
theorem decode_waitData_writeByte (hst : c.st = .waitData) (hinstr : c.instr = opWriteByte) (b : Byte) :
    decode c b = .ok (.writeByte (.data b)) := by
  simp only [decode, hst, decodeData, hinstr, commandOf_writeByte]

/-- A byte of a WRITE_STREAM data phase: its place is set by S.cancelSeen and the byte (R132). -/
theorem decode_waitData_writeStream (hst : c.st = .waitData) (hinstr : c.instr = opWriteStream) (b : Byte) :
    decode c b = .ok (.writeStream (streamRole c.cancelSeen b)) := by
  simp only [decode, hst, decodeData, hinstr, commandOf_writeStream]

/-- Without a CANCEL seen, 0xFF is the mark (R143). -/
theorem streamRole_unseen_mark {b : Byte} (h : b = opCancel) : streamRole false b = .mark := if_pos h

/-- Without a CANCEL seen, every other byte is data (R142). -/
theorem streamRole_unseen_data {b : Byte} (h : b ≠ opCancel) : streamRole false b = .data b := if_neg h

/-- With a CANCEL seen, 0xFF is an escaped data byte (R147). -/
theorem streamRole_seen_escaped {b : Byte} (h : b = opCancel) : streamRole true b = .escaped := if_pos h

/-- With a CANCEL seen, every other byte ends the stream (R144). -/
theorem streamRole_seen_terminator {b : Byte} (h : b ≠ opCancel) : streamRole true b = .terminator b := if_neg h

namespace Machine

variable {s : State} {b : Byte} {rest : List Byte}

/-- The step of a byte that the decoder accepts is its instruction's, at the state without the byte (R125). -/
theorem step_of_decode_ok (hrun : s.phase = .run) (hrx : s.rx = b :: rest) {i : Instr}
    (hdec : decode s.context b = .ok i) :
    step s = exec i { s with rx := rest } := by
  rw [step_byte s hrun hrx, hdec]

/-- A command byte's meaning (R127): a frame is begun with the byte itself, or one status is answered. -/
theorem exec_decodeCommand (b : Byte) (s : State) :
    exec (decodeCommand b) s = .next (
      if b = 0x01#8 ∨ b = 0x02#8 ∨ b = 0x03#8 ∨ b = 0x04#8 then beginFrame b s
      else if b = 0xAA#8 ∨ b = 0xFF#8 then respond ackByte s
      else respond nakByte s) := by
  by_cases hop : b = 0x01#8 ∨ b = 0x02#8 ∨ b = 0x03#8 ∨ b = 0x04#8
  · rw [if_pos hop]
    rcases hop with rfl | rfl | rfl | rfl <;> rfl
  rw [if_neg hop]
  by_cases hack : b = 0xAA#8 ∨ b = 0xFF#8
  · rw [if_pos hack]
    rcases hack with rfl | rfl <;> rfl
  rw [if_neg hack]
  have hunknown : isCommandByte b = false := by
    rw [isCommandByte_eq_false_iff]
    simpa [and_assoc] using And.intro hop hack
  rw [decodeCommand_unknown b hunknown]
  rfl

/-- Settles O11: at WAIT_INSTRUCTION the step is the command byte's meaning, whatever the byte. -/
theorem waitInstructionRule : Obligations.WaitInstructionRule := by
  intro s b rest hrun hrx hst
  exact (step_of_decode_ok hrun hrx (decode_waitInstruction hst b)).trans
    (exec_decodeCommand b { s with rx := rest })

/-- The step of a WRITE_STREAM data phase is the instruction of the byte's place (R132). -/
theorem step_waitData_writeStream (hrun : s.phase = .run) (hrx : s.rx = b :: rest)
    (hst : s.session.st = .waitData) (hinstr : s.session.instr = opWriteStream) :
    step s = exec (.writeStream (streamRole s.session.cancelSeen b)) { s with rx := rest } :=
  step_of_decode_ok hrun hrx (decode_waitData_writeStream hst hinstr b)

/-- Settles O14: WRITE_BYTE has one data byte; in a stream S.cancelSeen and the byte fix its place, and the step is
that place's instruction. append touches neither Tx, the events nor the bus. -/
theorem waitDataRule : Obligations.WaitDataRule := by
  rintro s _ b rest hrun hrx hst rfl
  have hstream := step_waitData_writeStream hrun hrx hst
  refine ⟨fun hinstr => ?writeByte,
    fun hinstr hseen hb => ⟨?data, append_tx _ b, append_events _ b, append_bus _ b⟩,
    fun hinstr hseen hb => ?mark, fun hinstr hseen hb => ?escaped, fun hinstr hseen hb => ?terminator⟩
  case writeByte => exact step_of_decode_ok hrun hrx (decode_waitData_writeByte hst hinstr b)
  case data =>
    rw [hstream hinstr, hseen, streamRole_unseen_data hb]
    rfl
  case mark =>
    rw [hstream hinstr, hseen, streamRole_unseen_mark hb]
    rfl
  case escaped =>
    rw [hstream hinstr, hseen, streamRole_seen_escaped hb]
    rfl
  case terminator =>
    rw [hstream hinstr, hseen, streamRole_seen_terminator hb]
    rfl

end Machine
end Sys2Proof
end

section
/-! PROOFS. The decoder and the encoder of one byte are inverse (30_encoding.md section 2). -/

namespace Sys2Proof

/-- The command byte of a command with operands (42_protocol.md R127). -/
def commandByte : Command → Byte
  | .writeByte => opWriteByte
  | .writeStream => opWriteStream
  | .readByte => opReadByte
  | .readStream => opReadStream

/-- Only the four command bytes name a command with operands (R130). -/
theorem commandOf_eq_some_iff (x : Byte) (k : Command) : commandOf x = some k ↔ x = commandByte k := by
  constructor
  · intro h
    unfold commandOf at h
    split_ifs at h <;> obtain rfl := Option.some.inj h <;> assumption
  · rintro rfl
    cases k <;> rfl

theorem commandOf_eq_none_iff (x : Byte) : commandOf x = none ↔ x ∉ [0x01#8, 0x02#8, 0x03#8, 0x04#8] := by
  unfold commandOf
  split_ifs <;> simp_all [opWriteByte, opWriteStream, opReadByte, opReadStream]

/-- Every instruction's byte stands in its place in some context. -/
theorem exists_context_expects (i : Instr) : ∃ c : Context, c.expects i = true := by
  cases i with
  | writeByte r =>
    cases r with
    | opcode => exact ⟨commandContext, rfl⟩
    | addrHi b => exact ⟨⟨.waitAddrHigh, opWriteByte, false, false⟩, rfl⟩
    | addrLo b => exact ⟨⟨.waitAddrLow, opWriteByte, false, false⟩, rfl⟩
    | data b => exact ⟨⟨.waitData, opWriteByte, false, false⟩, rfl⟩
  | writeStream r =>
    cases r with
    | opcode => exact ⟨commandContext, rfl⟩
    | addrHi b => exact ⟨⟨.waitAddrHigh, opWriteStream, false, false⟩, rfl⟩
    | addrLo b => exact ⟨⟨.waitAddrLow, opWriteStream, false, false⟩, rfl⟩
    | data b => exact ⟨⟨.waitData, opWriteStream, false, false⟩, rfl⟩
    | mark => exact ⟨⟨.waitData, opWriteStream, false, false⟩, rfl⟩
    | escaped => exact ⟨⟨.waitData, opWriteStream, false, true⟩, rfl⟩
    | terminator t => exact ⟨⟨.waitData, opWriteStream, false, true⟩, rfl⟩
  | readByte r =>
    cases r with
    | opcode => exact ⟨commandContext, rfl⟩
    | addrHi b => exact ⟨⟨.waitAddrHigh, opReadByte, false, false⟩, rfl⟩
    | addrLo b => exact ⟨⟨.waitAddrLow, opReadByte, false, false⟩, rfl⟩
  | readStream r =>
    cases r with
    | opcode => exact ⟨commandContext, rfl⟩
    | startHi b => exact ⟨⟨.waitAddrHigh, opReadStream, false, false⟩, rfl⟩
    | startLo b => exact ⟨⟨.waitAddrLow, opReadStream, false, false⟩, rfl⟩
    | endHi b => exact ⟨⟨.waitAddrHigh, opReadStream, true, false⟩, rfl⟩
    | endLo b => exact ⟨⟨.waitAddrLow, opReadStream, true, false⟩, rfl⟩
  | handshake => exact ⟨commandContext, rfl⟩
  | cancel => exact ⟨commandContext, rfl⟩
  | unknown b => exact ⟨commandContext, rfl⟩

/-- The family of Laws/PerInstr.lean for every instruction. -/
theorem decode_encodeByte {i : Instr} (hwf : i.wf = true) {c : Context} (hc : c.expects i = true) :
    decode c (encodeByte i) = .ok i := by
  cases i with
  | writeByte r => exact Laws.DecodeEncode.writeByte r hwf c hc
  | writeStream r => exact Laws.DecodeEncode.writeStream r hwf c hc
  | readByte r => exact Laws.DecodeEncode.readByte r hwf c hc
  | readStream r => exact Laws.DecodeEncode.readStream r hwf c hc
  | handshake => exact Laws.DecodeEncode.handshake hwf c hc
  | cancel => exact Laws.DecodeEncode.cancel hwf c hc
  | unknown b => exact Laws.DecodeEncode.unknown b hwf c hc

/-- Settles O2: a context for each place, and the per-instruction family in every such context. -/
theorem byteEncodeThenDecode : Obligations.ByteEncodeThenDecode :=
  fun i hwf => ⟨exists_context_expects i, fun _ hc => decode_encodeByte hwf hc⟩

/-- The opcode map answers a well-formed instruction that stands for the byte, in every context that waits for a
command (R87). -/
theorem decodeCommand_sound {c : Context} (hst : c.st = .waitInstruction) (b : Byte) :
    encodeByte (decodeCommand b) = b ∧ (decodeCommand b).wf = true ∧ c.expects (decodeCommand b) = true := by
  by_cases hb : isCommandByte b = false
  · rw [decodeCommand_unknown b hb]
    exact ⟨rfl, by simp [Instr.wf, hb], by simp [Context.expects, hst]⟩
  · have hmem : b ∈ [0x01#8, 0x02#8, 0x03#8, 0x04#8, 0xAA#8, 0xFF#8] := by
      rw [isCommandByte_eq_false_iff] at hb
      exact not_not.mp hb
    simp only [List.mem_cons, List.not_mem_nil, or_false] at hmem
    rcases hmem with rfl | rfl | rfl | rfl | rfl | rfl <;>
      exact ⟨rfl, rfl, by simp [decodeCommand, opWriteByte, opWriteStream, opReadByte, opReadStream, opHandshake,
        opCancel, Context.expects, hst]⟩

variable {c : Context} {b : Byte} {i : Instr}

theorem decodeAddrHigh_sound (hst : c.st = .waitAddrHigh) (h : decodeAddrHigh c b = .ok i) :
    encodeByte i = b ∧ i.wf = true ∧ c.expects i = true := by
  unfold decodeAddrHigh at h
  cases hk : commandOf c.instr with
  | none => simp [hk] at h
  | some k =>
    have hinstr := (commandOf_eq_some_iff _ _).mp hk
    cases k <;> simp only [hk, Except.ok.injEq] at h <;> subst h
    case readStream =>
      cases hp : c.rsPending <;>
        exact ⟨rfl, rfl, by simp [rangeHiRole, Context.expects, hst, hinstr, hp, commandByte]⟩
    all_goals exact ⟨rfl, rfl, by simp [Context.expects, hst, hinstr, commandByte]⟩

theorem decodeAddrLow_sound (hst : c.st = .waitAddrLow) (h : decodeAddrLow c b = .ok i) :
    encodeByte i = b ∧ i.wf = true ∧ c.expects i = true := by
  unfold decodeAddrLow at h
  cases hk : commandOf c.instr with
  | none => simp [hk] at h
  | some k =>
    have hinstr := (commandOf_eq_some_iff _ _).mp hk
    cases k <;> simp only [hk, Except.ok.injEq] at h <;> subst h
    case readStream =>
      cases hp : c.rsPending <;>
        exact ⟨rfl, rfl, by simp [rangeLoRole, Context.expects, hst, hinstr, hp, commandByte]⟩
    all_goals exact ⟨rfl, rfl, by simp [Context.expects, hst, hinstr, commandByte]⟩

/-- The byte of a stream's place is the byte it was read from (R132). -/
theorem streamRole_sound (seen : Bool) (b : Byte) :
    encodeByte (.writeStream (streamRole seen b)) = b ∧ (Instr.writeStream (streamRole seen b)).wf = true := by
  by_cases hb : b = opCancel <;> cases seen <;> simp [streamRole, hb, encodeByte, Instr.wf]

theorem decodeData_sound (hst : c.st = .waitData) (h : decodeData c b = .ok i) :
    encodeByte i = b ∧ i.wf = true ∧ c.expects i = true := by
  unfold decodeData at h
  cases hk : commandOf c.instr with
  | none => simp [hk] at h
  | some k =>
    have hinstr := (commandOf_eq_some_iff _ _).mp hk
    cases k <;> simp only [hk, Except.ok.injEq, reduceCtorEq] at h <;> subst h
    case writeByte => exact ⟨rfl, rfl, by simp [Context.expects, hst, hinstr, commandByte]⟩
    case writeStream =>
      obtain ⟨henc, hwf⟩ := streamRole_sound c.cancelSeen b
      refine ⟨henc, hwf, ?_⟩
      by_cases hb : b = opCancel <;> cases hseen : c.cancelSeen <;>
        simp [streamRole, hb, Context.expects, hst, hinstr, hseen, commandByte]

/-- What the byte decoder accepts is well-formed, in its place, and stands for the byte. -/
theorem decode_sound (h : decode c b = .ok i) : encodeByte i = b ∧ i.wf = true ∧ c.expects i = true := by
  cases hst : c.st with
  | waitInstruction =>
    rw [decode_waitInstruction hst, Except.ok.injEq] at h
    exact h ▸ decodeCommand_sound hst b
  | waitAddrHigh => exact decodeAddrHigh_sound hst (by simpa [decode, hst] using h)
  | waitAddrLow => exact decodeAddrLow_sound hst (by simpa [decode, hst] using h)
  | waitData => exact decodeData_sound hst (by simpa [decode, hst] using h)
  | readData => simp [decode, hst] at h

/-- Settles O3: the decoder of each protocol state answers the place of the command that S.instr names. -/
theorem byteDecodeThenEncode : Obligations.ByteDecodeThenEncode :=
  fun _ _ _ h => decode_sound h

/-- At an address state a byte is rejected exactly where S.instr names no command (log 4). -/
theorem decodeAddrHigh_rejects_iff (c : Context) (b : Byte) :
    (∃ r, decodeAddrHigh c b = .error r) ↔ commandOf c.instr = none := by
  unfold decodeAddrHigh
  cases commandOf c.instr with
  | none => simp
  | some k => cases k <;> simp

theorem decodeAddrLow_rejects_iff (c : Context) (b : Byte) :
    (∃ r, decodeAddrLow c b = .error r) ↔ commandOf c.instr = none := by
  unfold decodeAddrLow
  cases commandOf c.instr with
  | none => simp
  | some k => cases k <;> simp

/-- At WAIT_DATA a byte is rejected exactly where S.instr is no write command (R132). -/
theorem decodeData_rejects_iff (c : Context) (b : Byte) :
    (∃ r, decodeData c b = .error r) ↔ c.instr ∉ [0x01#8, 0x02#8] := by
  unfold decodeData
  cases hk : commandOf c.instr with
  | none =>
    have hinstr := (commandOf_eq_none_iff _).mp hk
    simp_all
  | some k =>
    have hinstr := (commandOf_eq_some_iff _ _).mp hk
    cases k <;> simp [hinstr, commandByte, opWriteByte, opWriteStream, opReadByte, opReadStream]

/-- Settles O4: each protocol state's decoder looks at S.instr and never at the byte to reject it. -/
theorem rejectedOnlyWithoutABranch : Obligations.RejectedOnlyWithoutABranch := by
  intro c b
  have hhigh := decodeAddrHigh_rejects_iff c b
  have hlow := decodeAddrLow_rejects_iff c b
  rw [commandOf_eq_none_iff] at hhigh hlow
  cases hst : c.st with
  | waitInstruction => simp [decode, hst]
  | waitAddrHigh => simpa [decode, hst] using hhigh
  | waitAddrLow => simpa [decode, hst] using hlow
  | waitData => simpa [decode, hst] using decodeData_rejects_iff c b
  | readData => simp [decode, hst]

end Sys2Proof
end

section
/-! PROOFS. The decoder and the encoder of whole frames are inverse (30_encoding.md section 2). -/

namespace Sys2Proof

/-! ### The data phase of a WRITE_STREAM (R78) -/

/-- The bytes of stream data on the wire: each 0xFF as the escape pair (R85). -/
def streamBytes (ds : List Byte) : List Byte := (ds.flatMap streamDataInstrs).map encodeByte

@[simp] theorem streamBytes_nil : streamBytes [] = [] := rfl

theorem streamBytes_cancel (ds : List Byte) :
    streamBytes (opCancel :: ds) = opCancel :: opCancel :: streamBytes ds := rfl

theorem streamBytes_data {d : Byte} (hd : d ≠ opCancel) (ds : List Byte) :
    streamBytes (d :: ds) = d :: streamBytes ds := by
  simp [streamBytes, streamDataInstrs, hd, encodeByte]

/-- An escape pair is one data byte. -/
theorem decodeStream_cancel_cancel (bs : List Byte) :
    decodeStream (opCancel :: opCancel :: bs) =
      (decodeStream bs).map (fun (d, x, r) => (opCancel :: d, x, r)) := by
  simp [decodeStream]

/-- A mark and another byte end the stream. -/
theorem decodeStream_cancel_terminator {t : Byte} (ht : t ≠ opCancel) (bs : List Byte) :
    decodeStream (opCancel :: t :: bs) = .ok ([], t, bs) := by
  simp [decodeStream, ht]

/-- Any other byte is data. -/
theorem decodeStream_data {d : Byte} (hd : d ≠ opCancel) (bs : List Byte) :
    decodeStream (d :: bs) = (decodeStream bs).map (fun (ds, x, r) => (d :: ds, x, r)) := by
  cases bs with
  | nil => rfl
  | cons b bs => rw [decodeStream, if_neg hd]

theorem decodeStream_streamBytes {t : Byte} (ht : t ≠ opCancel) (ds rest : List Byte) :
    decodeStream (streamBytes ds ++ opCancel :: t :: rest) = .ok (ds, t, rest) := by
  induction ds with
  | nil => exact decodeStream_cancel_terminator ht rest
  | cons d ds ih =>
    by_cases hd : d = opCancel
    · rw [hd, streamBytes_cancel, List.cons_append, List.cons_append, decodeStream_cancel_cancel, ih]
      rfl
    · rw [streamBytes_data hd, List.cons_append, decodeStream_data hd, ih]
      rfl

/-- Only an answer comes out of a mapped answer. -/
theorem exceptMap_eq_ok {ε α β : Type} {f : α → β} {x : Except ε α} {b : β} (h : x.map f = .ok b) :
    ∃ a, x = .ok a ∧ f a = b := by
  cases x with
  | error e => cases h
  | ok a => exact ⟨a, rfl, Except.ok.inj h⟩

theorem decodeStream_sound {bs ds rest : List Byte} {t : Byte} (h : decodeStream bs = .ok (ds, t, rest)) :
    t ≠ opCancel ∧ streamBytes ds ++ opCancel :: t :: rest = bs := by
  fun_induction decodeStream bs generalizing ds with
  | case1 => cases h
  | case2 => cases h
  | case3 tl ih =>
    obtain ⟨⟨ds', t', rest'⟩, hdec, heq⟩ := exceptMap_eq_ok h
    cases heq
    obtain ⟨ht, hbytes⟩ := ih hdec
    exact ⟨ht, by rw [streamBytes_cancel, List.cons_append, List.cons_append, hbytes]⟩
  | case4 t' tl ht =>
    cases h
    exact ⟨ht, rfl⟩
  | case5 d t' tl hd ih =>
    obtain ⟨⟨ds', t', rest'⟩, hdec, heq⟩ := exceptMap_eq_ok h
    cases heq
    obtain ⟨ht, hbytes⟩ := ih hdec
    exact ⟨ht, by rw [streamBytes_data hd, List.cons_append, hbytes]⟩

/-! ### The addresses of a READ_STREAM (R80) -/

/-- The bytes of the starts that were not retained (R152): pairs FF FF. -/
def skippedBytes : Nat → List Byte
  | 0 => []
  | k + 1 => addrHighByte rsSentinel :: addrLowByte rsSentinel :: skippedBytes k

theorem assembleAddr_eq_sentinel {hi lo : Byte} (h : assembleAddr hi lo = rsSentinel) :
    hi = addrHighByte rsSentinel ∧ lo = addrLowByte rsSentinel := by
  rw [← h]
  exact ⟨(addrHighByte_assembleAddr hi lo).symm, (addrLowByte_assembleAddr hi lo).symm⟩

/-- A start of 0xFFFF is not retained under SENTINEL_ALIAS. -/
theorem decodeRange_sentinel (bs : List Byte) :
    decodeRange true (addrHighByte rsSentinel :: addrLowByte rsSentinel :: bs) =
      (decodeRange true bs).map (fun (k, s, e, r) => (k + 1, s, e, r)) := by
  rw [decodeRange, if_pos ⟨rfl, assembleAddr_bytes _⟩]

/-- Any other start is, and the end follows. -/
theorem decodeRange_start {sentinelAlias : Bool} {start : Addr}
    (h : ¬ (sentinelAlias = true ∧ start = rsSentinel)) (bs : List Byte) :
    decodeRange sentinelAlias (addrHighByte start :: addrLowByte start :: bs) = decodeRangeEnd start bs := by
  rw [decodeRange, assembleAddr_bytes, if_neg h]

theorem decodeRangeEnd_bytes (start stop : Addr) (rest : List Byte) :
    decodeRangeEnd start (addrHighByte stop :: addrLowByte stop :: rest) = .ok (0, start, stop, rest) := by
  rw [decodeRangeEnd, assembleAddr_bytes]

theorem decodeRangeEnd_sound {start s e : Addr} {k : Nat} {bs rest : List Byte}
    (h : decodeRangeEnd start bs = .ok (k, s, e, rest)) :
    k = 0 ∧ s = start ∧ addrHighByte e :: addrLowByte e :: rest = bs := by
  unfold decodeRangeEnd at h
  split at h
  · cases h
    exact ⟨rfl, rfl, by simp⟩
  · cases h

theorem decodeRange_skippedBytes {start : Addr} (h : start ≠ rsSentinel) (k : Nat) (stop : Addr)
    (rest : List Byte) :
    decodeRange true (skippedBytes k ++ addrHighByte start :: addrLowByte start ::
      addrHighByte stop :: addrLowByte stop :: rest) = .ok (k, start, stop, rest) := by
  induction k with
  | zero => exact (decodeRange_start (fun hs => h hs.2) _).trans (decodeRangeEnd_bytes start stop rest)
  | succ k ih =>
    rw [skippedBytes, List.cons_append, List.cons_append, decodeRange_sentinel, ih]
    rfl

/-- The frames of R80: under SENTINEL_ALIAS a retained start is no 0xFFFF, without it every start is retained. -/
def RangeWf (sentinelAlias : Bool) (skipped : Nat) (start : Addr) : Prop :=
  if sentinelAlias then start ≠ rsSentinel else skipped = 0

theorem wf_readStream_iff (sentinelAlias : Bool) (skipped : Nat) (start stop : Addr) :
    (Frame.readStream skipped start stop).wf sentinelAlias = true ↔ RangeWf sentinelAlias skipped start := by
  cases sentinelAlias <;> simp [Frame.wf, RangeWf]

theorem decodeRange_bytes {sentinelAlias : Bool} {skipped : Nat} {start : Addr}
    (h : RangeWf sentinelAlias skipped start) (stop : Addr) (rest : List Byte) :
    decodeRange sentinelAlias (skippedBytes skipped ++ addrHighByte start :: addrLowByte start ::
      addrHighByte stop :: addrLowByte stop :: rest) = .ok (skipped, start, stop, rest) := by
  cases sentinelAlias with
  | true => exact decodeRange_skippedBytes h skipped stop rest
  | false =>
    obtain rfl : skipped = 0 := h
    exact (decodeRange_start (by simp) _).trans (decodeRangeEnd_bytes start stop rest)

theorem decodeRange_sound {sentinelAlias : Bool} {bs rest : List Byte} {k : Nat} {start stop : Addr}
    (h : decodeRange sentinelAlias bs = .ok (k, start, stop, rest)) :
    RangeWf sentinelAlias k start ∧
    skippedBytes k ++ addrHighByte start :: addrLowByte start ::
      addrHighByte stop :: addrLowByte stop :: rest = bs := by
  fun_induction decodeRange sentinelAlias bs generalizing k with
  | case1 hi lo tl hs ih =>
    obtain ⟨⟨k', start', stop', rest'⟩, hdec, heq⟩ := exceptMap_eq_ok h
    cases heq
    obtain ⟨hwf, hbytes⟩ := ih hdec
    obtain ⟨halias, haddr⟩ := hs
    obtain ⟨rfl, rfl⟩ := assembleAddr_eq_sentinel haddr
    subst halias
    exact ⟨hwf, by rw [skippedBytes, List.cons_append, List.cons_append, hbytes]⟩
  | case2 hi lo tl hs =>
    obtain ⟨rfl, rfl, rfl⟩ := decodeRangeEnd_sound h
    refine ⟨?_, by simp [skippedBytes]⟩
    cases sentinelAlias with
    | true => exact fun haddr => hs ⟨rfl, haddr⟩
    | false => rfl
  | case3 => cases h

/-! ### The bytes of each frame -/

theorem bytes_writeByte (a : Addr) (d : Byte) :
    (Frame.writeByte a d).bytes = [opWriteByte, addrHighByte a, addrLowByte a, d] := rfl

theorem bytes_writeStream (a : Addr) (ds : List Byte) (t : Byte) :
    (Frame.writeStream a ds t).bytes =
      opWriteStream :: addrHighByte a :: addrLowByte a :: (streamBytes ds ++ [opCancel, t]) := by
  simp [Frame.bytes, Frame.instrs, streamBytes, encodeByte]

theorem bytes_readByte (a : Addr) :
    (Frame.readByte a).bytes = [opReadByte, addrHighByte a, addrLowByte a] := rfl

theorem bytes_readStream (k : Nat) (start stop : Addr) :
    (Frame.readStream k start stop).bytes =
      opReadStream :: (skippedBytes k ++
        [addrHighByte start, addrLowByte start, addrHighByte stop, addrLowByte stop]) := by
  have hskip : ((List.replicate k
      [Instr.readStream (.startHi (addrHighByte rsSentinel)),
        Instr.readStream (.startLo (addrLowByte rsSentinel))]).flatten).map encodeByte = skippedBytes k := by
    induction k with
    | zero => rfl
    | succ k ih =>
      rw [List.replicate_succ, List.flatten_cons, List.map_append, ih]
      rfl
  rw [Frame.bytes, Frame.instrs, List.map_append, List.map_append, hskip]
  rfl

/-! ### Whole frames -/

theorem decodeFrame_writeStream (sentinelAlias : Bool) (bs : List Byte) :
    decodeFrame sentinelAlias (opWriteStream :: bs) = decodeWriteStreamFrame bs := rfl

theorem decodeFrame_readStream (sentinelAlias : Bool) (bs : List Byte) :
    decodeFrame sentinelAlias (opReadStream :: bs) =
      (decodeRange sentinelAlias bs).map (fun (k, s, e, r) => (.readStream k s e, r)) := rfl

theorem decodeFrame_unknown {b : Byte} (hb : isCommandByte b = false) (sentinelAlias : Bool) (bs : List Byte) :
    decodeFrame sentinelAlias (b :: bs) = .ok (.unknown b, bs) := by
  simp only [decodeFrame, decodeCommand_unknown b hb]

theorem decodeWriteByteFrame_bytes (a : Addr) (d : Byte) (rest : List Byte) :
    decodeWriteByteFrame (addrHighByte a :: addrLowByte a :: d :: rest) = .ok (.writeByte a d, rest) := by
  rw [decodeWriteByteFrame, assembleAddr_bytes]

theorem decodeReadByteFrame_bytes (a : Addr) (rest : List Byte) :
    decodeReadByteFrame (addrHighByte a :: addrLowByte a :: rest) = .ok (.readByte a, rest) := by
  rw [decodeReadByteFrame, assembleAddr_bytes]

theorem decodeWriteStreamFrame_bytes {t : Byte} (ht : t ≠ opCancel) (a : Addr) (ds rest : List Byte) :
    decodeWriteStreamFrame (addrHighByte a :: addrLowByte a :: (streamBytes ds ++ opCancel :: t :: rest)) =
      .ok (.writeStream a ds t, rest) := by
  rw [decodeWriteStreamFrame, assembleAddr_bytes, decodeStream_streamBytes ht]
  rfl

/-- Settles O5: by the frame's class; a stream's data by induction on the data, a range's starts by induction on
the ones that were not retained. -/
theorem frameEncodeThenDecode : Obligations.FrameEncodeThenDecode := by
  intro sentinelAlias f rest hwf
  cases f with
  | writeByte a d => exact decodeWriteByteFrame_bytes a d rest
  | writeStream a ds t =>
    have ht : t ≠ opCancel := by simpa [Frame.wf] using hwf
    rw [bytes_writeStream, List.cons_append, decodeFrame_writeStream]
    simpa using decodeWriteStreamFrame_bytes ht a ds rest
  | readByte a => exact decodeReadByteFrame_bytes a rest
  | readStream k start stop =>
    have hrange := decodeRange_bytes ((wf_readStream_iff _ _ _ _).mp hwf) stop rest
    rw [bytes_readStream, List.cons_append, decodeFrame_readStream, List.append_assoc, List.cons_append,
      List.cons_append, List.cons_append, List.cons_append, List.nil_append, hrange]
    rfl
  | handshake => rfl
  | cancel => rfl
  | unknown b =>
    have hb : isCommandByte b = false := by simpa [Frame.wf] using hwf
    exact decodeFrame_unknown hb _ _

theorem decodeWriteByteFrame_sound {bs rest : List Byte} {f : Frame}
    (h : decodeWriteByteFrame bs = .ok (f, rest)) (sentinelAlias : Bool) :
    f.wf sentinelAlias = true ∧ f.bytes ++ rest = opWriteByte :: bs := by
  unfold decodeWriteByteFrame at h
  split at h
  · cases h
    exact ⟨rfl, by simp [bytes_writeByte]⟩
  · cases h

theorem decodeWriteStreamFrame_sound {bs rest : List Byte} {f : Frame}
    (h : decodeWriteStreamFrame bs = .ok (f, rest)) (sentinelAlias : Bool) :
    f.wf sentinelAlias = true ∧ f.bytes ++ rest = opWriteStream :: bs := by
  unfold decodeWriteStreamFrame at h
  split at h
  · obtain ⟨⟨ds, t, rest'⟩, hdec, heq⟩ := exceptMap_eq_ok h
    cases heq
    obtain ⟨ht, hbytes⟩ := decodeStream_sound hdec
    exact ⟨by simp [Frame.wf, ht], by simp [bytes_writeStream, ← hbytes]⟩
  · cases h

theorem decodeReadByteFrame_sound {bs rest : List Byte} {f : Frame}
    (h : decodeReadByteFrame bs = .ok (f, rest)) (sentinelAlias : Bool) :
    f.wf sentinelAlias = true ∧ f.bytes ++ rest = opReadByte :: bs := by
  unfold decodeReadByteFrame at h
  split at h
  · cases h
    exact ⟨rfl, by simp [bytes_readByte]⟩
  · cases h

theorem decodeReadStreamFrame_sound {sentinelAlias : Bool} {bs rest : List Byte} {f : Frame}
    (h : (decodeRange sentinelAlias bs).map (fun (k, s, e, r) => (Frame.readStream k s e, r)) = .ok (f, rest)) :
    f.wf sentinelAlias = true ∧ f.bytes ++ rest = opReadStream :: bs := by
  obtain ⟨⟨k, start, stop, rest'⟩, hdec, heq⟩ := exceptMap_eq_ok h
  cases heq
  obtain ⟨hwf, hbytes⟩ := decodeRange_sound hdec
  exact ⟨(wf_readStream_iff _ _ _ _).mpr hwf, by simp [bytes_readStream, ← hbytes]⟩

/-- Settles O6: by the frame's first byte; a stream's data and a range's starts by induction along their decoders. -/
theorem frameDecodeThenEncode : Obligations.FrameDecodeThenEncode := by
  intro sentinelAlias bs rest f h
  cases bs with
  | nil => cases h
  | cons c bs =>
    by_cases hc : isCommandByte c = false
    · rw [decodeFrame_unknown hc] at h
      cases h
      exact ⟨by simp [Frame.wf, hc], rfl⟩
    · have hmem : c ∈ [0x01#8, 0x02#8, 0x03#8, 0x04#8, 0xAA#8, 0xFF#8] := by
        rw [isCommandByte_eq_false_iff] at hc
        exact not_not.mp hc
      simp only [List.mem_cons, List.not_mem_nil, or_false] at hmem
      rcases hmem with rfl | rfl | rfl | rfl | rfl | rfl
      · exact decodeWriteByteFrame_sound h sentinelAlias
      · exact decodeWriteStreamFrame_sound h sentinelAlias
      · exact decodeReadByteFrame_sound h sentinelAlias
      · exact decodeReadStreamFrame_sound h
      · cases h
        exact ⟨rfl, rfl⟩
      · cases h
        exact ⟨rfl, rfl⟩

end Sys2Proof
end

section
/-! PROOFS. The bus primitives in every posture (40_bus_driver.md) and the pins (10_state.md R39). -/

namespace Sys2Proof.Machine

variable (s : State)

/-! ### The fault record after each primitive (R98, R100 to R102, R105, R106) -/

/-- The posture check records the two posture faults and nothing else (R105, R106). -/
@[simp] theorem checkPosture_faults : (checkPosture s).faults =
    { busMisuse := s.faults.busMisuse
      busContention := s.faults.busContention || (s.bus.dir == .output && s.bus.oe)
      busWeOe := s.faults.busWeOe || (s.bus.we && s.bus.oe) } := by
  cases hc : (s.bus.dir == .output && s.bus.oe) <;> cases hw : (s.bus.we && s.bus.oe) <;>
    simp [checkPosture, hc, hw, FaultSet.add]

@[simp] theorem setAddress_faults (a : Addr) : (setAddress a s).faults =
    { busMisuse := s.faults.busMisuse
      busContention := s.faults.busContention || (s.bus.dir == .output && s.bus.oe)
      busWeOe := s.faults.busWeOe || (s.bus.we && s.bus.oe) } := by
  simp [setAddress]

@[simp] theorem setDataDirection_faults (d : Dir) : (setDataDirection d s).faults =
    { busMisuse := s.faults.busMisuse
      busContention := s.faults.busContention || (d == .output && s.bus.oe)
      busWeOe := s.faults.busWeOe || (s.bus.we && s.bus.oe) } := by
  simp [setDataDirection]

@[simp] theorem setOutputEnable_faults (x : Bool) : (setOutputEnable x s).faults =
    { busMisuse := s.faults.busMisuse
      busContention := s.faults.busContention || (s.bus.dir == .output && x)
      busWeOe := s.faults.busWeOe || (s.bus.we && x) } := by
  simp [setOutputEnable]

/-- A condition's BUS_MISUSE leaves the two posture faults. -/
theorem faultIf_busMisuse_faults (c : Bool) : (faultIf c .busMisuse s).faults =
    { s.faults with busMisuse := s.faults.busMisuse || c } := by
  cases c <;> simp [FaultSet.add]

@[simp] theorem setDataOut_faults (v : Byte) : (setDataOut v s).faults =
    { busMisuse := s.faults.busMisuse || (s.bus.dir == .input)
      busContention := s.faults.busContention || (s.bus.dir == .output && s.bus.oe)
      busWeOe := s.faults.busWeOe || (s.bus.we && s.bus.oe) } := by
  have hdir : (s.bus.dir != .output) = (s.bus.dir == .input) := by cases s.bus.dir <;> rfl
  simp only [setDataOut, checkPosture_faults, record_faults, faultIf_busMisuse_faults, record_bus, faultIf_bus, hdir]

@[simp] theorem setWriteEnable_faults (x : Bool) : (setWriteEnable x s).faults =
    { busMisuse := s.faults.busMisuse || (x && s.bus.dir == .input)
      busContention := s.faults.busContention || (s.bus.dir == .output && s.bus.oe)
      busWeOe := s.faults.busWeOe || (x && s.bus.oe) } := by
  unfold setWriteEnable
  split <;> simp only [checkPosture_faults, record_faults, chipLatch_faults, faultIf_busMisuse_faults, record_bus,
    chipLatch_bus, faultIf_bus]

@[simp] theorem readDataIn_faults : (readDataIn s).2.faults =
    { busMisuse := s.faults.busMisuse || (s.bus.dir == .output)
      busContention := s.faults.busContention || (s.bus.dir == .output && s.bus.oe)
      busWeOe := s.faults.busWeOe || (s.bus.we && s.bus.oe) } := by
  have hdir : (s.bus.dir != .input) = (s.bus.dir == .output) := by cases s.bus.dir <;> rfl
  simp only [readDataIn, checkPosture_faults, record_faults, sampleLines_faults, faultIf_busMisuse_faults, record_bus,
    sampleLines_bus, faultIf_bus, hdir]

/-- Settles O40: each primitive's fault record, one primitive a case. -/
theorem primitiveFaults : Obligations.PrimitiveFaults := by
  intro s t misuse a d v x h
  rcases h with ⟨rfl, rfl⟩ | ⟨rfl, rfl⟩ | ⟨rfl, rfl⟩ | ⟨rfl, rfl⟩ | ⟨rfl, rfl⟩ | ⟨rfl, rfl⟩
  · simp
  · simp
  · simp
  · simp
  · simp
  · simp

/-- Settles O39: no primitive but setDataDirection has the direction among its fields, and the fault record of
setDataOut and of readDataIn names the direction each wants. -/
theorem directionIsExplicit : Obligations.DirectionIsExplicit := by
  intro s a v x
  refine ⟨by simp, by simp, by simp, by simp, by simp, fun hin => ?_, fun hout => ?_⟩
  · simp [hin]
  · simp [hout]

/-! ### What each primitive writes -/

/-- The posture check changes the fault record alone. -/
theorem checkPosture_eq : checkPosture s = { s with faults := (checkPosture s).faults } := by
  unfold checkPosture faultIf
  split <;> split <;> rfl

/-- A fault condition changes the fault record alone. -/
theorem faultIf_eq (c : Bool) (f : Fault) : faultIf c f s = { s with faults := (faultIf c f s).faults } := by
  unfold faultIf
  split <;> rfl

theorem setAddress_eq (a : Addr) : setAddress a s = { s with
    bus.a := busAddr a, events := s.events ++ [.setA (busAddr a)], faults := (setAddress a s).faults } := by
  rw [setAddress, checkPosture_eq]
  rfl

theorem setDataDirection_eq (d : Dir) : setDataDirection d s = { s with
    bus.dir := d, events := s.events ++ [.setDir d], faults := (setDataDirection d s).faults } := by
  rw [setDataDirection, checkPosture_eq]
  rfl

theorem setOutputEnable_eq (x : Bool) : setOutputEnable x s = { s with
    bus.oe := x, events := s.events ++ [.oe x], faults := (setOutputEnable x s).faults } := by
  rw [setOutputEnable, checkPosture_eq]
  rfl

theorem setDataOut_eq (v : Byte) : setDataOut v s = { s with
    bus.dlatch := v, events := s.events ++ [.setD v], faults := (setDataOut v s).faults } := by
  rw [setDataOut, checkPosture_eq, faultIf_eq]
  rfl

/-- The end of a write pulse changes the chip alone (R59, R60). -/
theorem chipLatch_eq : chipLatch s = { s with chip := (chipLatch s).chip } := by
  unfold chipLatch
  split <;> rfl

/-- The end of a write pulse in the reference environment (R59, R60, log 11). -/
theorem chipLatch_chip : (chipLatch s).chip = if s.chip.env = .reference then
    { s.chip with
      cells := if s.bus.dir = .output ∧ s.bus.oe = false then
        Memory.write s.chip.cells s.bus.a.toNat s.bus.dlatch else s.chip.cells
      busy := true }
    else s.chip := by
  unfold chipLatch Bus.writePosture
  split <;> simp

/-- The chip moves only at a write pulse's end (R100). -/
theorem setWriteEnable_chip (x : Bool) : (setWriteEnable x s).chip =
    if s.bus.we && !x then (chipLatch s).chip else s.chip := by
  cases x with
  | true => simp
  | false =>
    unfold setWriteEnable
    cases s.bus.we <;> simp [faultIf]

theorem setWriteEnable_eq (x : Bool) : setWriteEnable x s = { s with
    bus.we := x, events := s.events ++ [.we x], faults := (setWriteEnable x s).faults
    chip := (setWriteEnable x s).chip } := by
  rw [setWriteEnable, checkPosture_eq]
  split
  · rw [chipLatch_eq, faultIf_eq]
    rfl
  · rw [faultIf_eq]
    rfl

/-- Of the sample, the draw counter alone can change (R58, R102). -/
theorem readDataIn_eq : readDataIn s = ((sampleLines s).1, { s with
    draws := (sampleLines s).2.draws, events := s.events ++ [.sample (sampleLines s).1]
    faults := (readDataIn s).2.faults }) := by
  have hsample : ∀ fs, sampleLines { s with faults := fs } =
      ((sampleLines s).1, { s with draws := (sampleLines s).2.draws, faults := fs }) := by
    intro fs
    simp only [sampleLines, State.cell]
    split <;> rfl
  unfold readDataIn
  dsimp only
  rw [faultIf_eq, hsample, checkPosture_eq]
  rfl

/-- The sample of a read posture out of the write cycle, in the reference environment (R58). -/
theorem sampleLines_cell (h : s.chip.env = .reference ∧ s.bus.readPosture = true ∧ s.chip.busy = false) :
    sampleLines s = (s.cell s.bus.a, s) := by
  rw [sampleLines, if_pos h]

/-- Every other sample is a free draw (R58, R60, log 9). -/
theorem sampleLines_free (h : ¬ (s.chip.env = .reference ∧ s.bus.readPosture = true ∧ s.chip.busy = false)) :
    sampleLines s = (Config.freeSample s.draws, { s with draws := s.draws + 1 }) := by
  rw [sampleLines, if_neg h]

theorem readPosture_iff (b : Bus) : b.readPosture = true ↔ b.dir = .input ∧ b.oe = true ∧ b.we = false := by
  simp [Bus.readPosture, and_assoc]

/-- Settles O38: the equation of each primitive, with the chip at a pulse's end and the two cases of a sample. -/
theorem primitivesWriteTheirField : Obligations.PrimitivesWriteTheirField := by
  intro s a d v x
  refine ⟨setAddress_eq s a, setDataDirection_eq s d, setDataOut_eq s v, ?writeEnable, setOutputEnable_eq s x,
    fun h => ?cell, fun h => ?free⟩
  case writeEnable =>
    have hchip : (setWriteEnable x s).chip =
        if s.bus.we = true ∧ x = false ∧ s.chip.env = .reference then
          { s.chip with
            cells := if s.bus.dir = .output ∧ s.bus.oe = false then
              Memory.write s.chip.cells s.bus.a.toNat s.bus.dlatch else s.chip.cells
            busy := true }
        else s.chip := by
      rw [setWriteEnable_chip, chipLatch_chip]
      cases s.bus.we <;> cases x <;> simp
    rw [← hchip]
    exact setWriteEnable_eq s x
  case cell =>
    have hread := sampleLines_cell s (by rw [readPosture_iff]; tauto)
    rw [readDataIn_eq, hread]
  case free =>
    have hfree := sampleLines_free s (by rw [readPosture_iff]; tauto)
    rw [readDataIn_eq, hfree]

/-! ### The pins -/

/-- Reading a vector position by position gives its list. -/
theorem finRange_map_vector {n : Nat} (v : Vector Nat n) :
    (List.finRange n).map (fun i => v[i]) = v.toList := by
  apply List.ext_getElem <;> simp

/-- The physical lines are LINE_MAP's (00_scope.md R15). -/
theorem physicalLevels_lines (m : LineMap) (p : Pins) :
    (physicalLevels m p).map Prod.fst = m.addr.toList ++ m.data.toList := by
  rw [← finRange_map_vector m.addr, ← finRange_map_vector m.data]
  simp [physicalLevels, Function.comp_def]

/-- Settles O41: the pins unfold from the bus state, and LINE_MAP is injective by its own field. -/
theorem pinRelation : Obligations.PinRelation := by
  refine ⟨fun b => ⟨rfl, rfl, rfl, fun hout => ?_, fun hin => ?_⟩, fun m p => ?_⟩
  · simp [Bus.pins, hout]
  · simp [Bus.pins, hin]
  · rw [physicalLevels_lines]
    exact m.injective

end Sys2Proof.Machine
end

section
/-! PROOFS. The EEPROM Operations (41_eeprom_ops.md): what they record, what they leave, and what they read. -/

namespace Sys2Proof.Machine

variable (s : State)

/-! ### programByte in every posture (R113 to R115) -/

@[simp] theorem programByte_events (d : Byte) (a : Addr) :
    (programByte d a s).events = s.events ++ programTrace d a := by
  simp [programByte, programTrace]

@[simp] theorem delay_wp_chip : (delay .wp s).chip = s.chip := rfl
@[simp] theorem delay_dh_chip : (delay .dh s).chip = s.chip := rfl

/-- The lines after programByte: driven with the data, output-enable as it was. -/
@[simp] theorem programByte_bus (d : Byte) (a : Addr) : (programByte d a s).bus =
    { a := busAddr a, dlatch := d, dir := .output, we := false, oe := s.bus.oe } := by
  simp [programByte]

/-- The chip after programByte: its one pulse ends at the byte's cell (R59, R60). -/
theorem programByte_chip (d : Byte) (a : Addr) : (programByte d a s).chip = if s.chip.env = .reference then
    { s.chip with
      cells := if s.bus.oe = false then Memory.write s.chip.cells (busAddr a).toNat d else s.chip.cells
      busy := true }
    else s.chip := by
  simp [programByte, setWriteEnable_chip, chipLatch_chip]

/-- programByte leaves every cell but the addressed one, in every posture. -/
theorem programByte_cell_of_ne (hwf : s.chip.cells.wf) (d : Byte) {a : Addr} {x : BusAddr} (hx : x ≠ busAddr a) :
    (programByte d a s).cell x = s.cell x := by
  have hne : x.toNat ≠ (busAddr a).toNat := fun h => hx (BitVec.eq_of_toNat_eq h)
  unfold State.cell
  rw [programByte_chip]
  split_ifs
  · exact (read_write _ _ _ _ hwf.1).trans (if_neg hne)
  · rfl
  · rfl

theorem programByte_wf (hwf : s.chip.cells.wf) (d : Byte) (a : Addr) : (programByte d a s).chip.cells.wf := by
  rw [programByte_chip]
  split_ifs
  · exact write_wf _ _ _ hwf (busAddr a).isLt
  · exact hwf
  · exact hwf

/-- Settles O42: the events are programByte's own seven, in every posture, and its pulse's end begins the write
cycle. -/
theorem programByteNeitherReadsNorWaits : Obligations.ProgramByteNeitherReadsNorWaits := by
  intro s d a
  refine ⟨⟨programTrace d a, programByte_events s d a, by simp [programTrace], by simp [programTrace]⟩,
    by rw [programByte_bus], fun henv => ?_⟩
  rw [programByte_chip, if_pos henv]

/-! ### The flush's loop in every posture -/

/-- The loop leaves every cell that none of its bytes goes to (R134). -/
theorem programFrom_cell_of_ne (addr : Addr) (x : BusAddr) (ds : List Byte) (i : Nat) (s : State)
    (hwf : s.chip.cells.wf)
    (hx : ∀ j, i ≤ j → j < i + ds.length → x ≠ busAddr (addr + BitVec.ofNat 16 j)) :
    (programFrom addr i ds s).cell x = s.cell x := by
  induction ds generalizing i s with
  | nil => rfl
  | cons d ds ih =>
    rw [List.length_cons] at hx
    rw [programFrom, ih (i + 1) _ (programByte_wf s hwf d _) (fun j h1 h2 => hx j (by omega) (by omega)),
      programByte_cell_of_ne s hwf d (hx i le_rfl (by omega))]

/-! ### The idle posture -/

/-- Settles O43: from the idle posture each operation's whole next state is known, and its lines are idle. -/
theorem operationsKeepTheIdlePosture : Obligations.OperationsKeepTheIdlePosture := by
  intro s t d a b hidle h
  rcases h with rfl | rfl | rfl | rfl
  · rw [programByte_idle s hidle]
    exact ⟨busAfterProgram_idle d a, rfl⟩
  · rw [readByte_idle s hidle]
    exact ⟨hidle, rfl⟩
  · by_cases hle : a ≤ b
    · rw [readRange_idle s hidle hle]
      exact ⟨hidle, rfl⟩
    · rw [readRange_empty s (by simpa using hle)]
      exact ⟨hidle, rfl⟩
  · rw [flush_idle s hidle]
    exact ⟨busAfterPrograms_idle _ _ _ _ hidle, rfl⟩

/-! ### Reads in the chip's write cycle (20_memory.md R60) -/

/-- A sample in the write cycle is a free draw, whatever the posture. -/
theorem readDataIn_busy (h : s.chip.busy = true) :
    (readDataIn s).1 = Config.freeSample s.draws ∧ (readDataIn s).2.draws = s.draws + 1 := by
  rw [readDataIn_eq, sampleLines_free s (by simp [h])]
  exact ⟨rfl, rfl⟩

/-- So is the byte of a whole read, whatever the posture it starts in. -/
theorem readByte_busy (h : s.chip.busy = true) (a : Addr) :
    (readByte a s).1 = Config.freeSample s.draws ∧ (readByte a s).2.draws = s.draws + 1 := by
  have hsample := readDataIn_busy (awaitOutputSettle (setOutputEnable true (setAddress a
    (setDataDirection .input s)))) (by simp [awaitOutputSettle, h])
  simpa [readByte, endRead, awaitOutputSettle] using hsample

/-- Settles O45: programByte and every end of a write pulse leave the chip in its write cycle, and a read in the
write cycle draws. -/
theorem readInTheWriteCycleIsFree : Obligations.ReadInTheWriteCycleIsFree := by
  constructor
  · intro s a d _ henv
    have hbusy : (programByte d a s).chip.busy = true := by rw [programByte_chip, if_pos henv]
    simpa using readByte_busy _ hbusy a
  · intro s a hwe henv
    have hbusy : (setWriteEnable false s).chip.busy = true := by
      rw [setWriteEnable_chip, hwe]
      exact chipLatch_busy s henv
    simpa using readByte_busy _ hbusy a

/-! ### The range read (R118, R121, 70_reset_and_hazards.md R200) -/

@[simp] theorem samplesFrom_length (k a n : Nat) : (s.samplesFrom k a n).length = n := by
  induction n generalizing k a with
  | zero => rfl
  | succ n ih => simp [State.samplesFrom, ih]

/-- The i-th of the samples is the one at the i-th address. -/
theorem samplesFrom_getElem (k a n i : Nat) (h : i < (s.samplesFrom k a n).length) :
    (s.samplesFrom k a n)[i] = s.sampleAt (k + i) (busAddr (BitVec.ofNat 16 (a + i))) := by
  induction n generalizing k a i with
  | zero => simp [State.samplesFrom] at h
  | succ n ih =>
    cases i with
    | zero => simp [State.samplesFrom]
    | succ i =>
      have hi : i < (s.samplesFrom (k + 1) (a + 1) n).length := by simpa [State.samplesFrom] using h
      simp only [State.samplesFrom, List.getElem_cons_succ, ih (k + 1) (a + 1) i hi]
      rw [show k + 1 + i = k + (i + 1) by omega, show a + 1 + i = a + (i + 1) by omega]

theorem determined_iff : s.determined = true ↔ s.chip.env = .reference ∧ s.chip.busy = false := by
  simp [State.determined]

/-- In the reference environment out of the write cycle every sample in a read posture is the cell. -/
theorem sampleAt_determined (henv : s.chip.env = .reference) (hbusy : s.chip.busy = false) (k : Nat) (a : BusAddr) :
    s.sampleAt k a = s.cell a := by
  rw [State.sampleAt, if_pos ((determined_iff s).mpr ⟨henv, hbusy⟩)]

theorem samplesFrom_determined (henv : s.chip.env = .reference) (hbusy : s.chip.busy = false) (k a n : Nat) :
    s.samplesFrom k a n = s.cellsFrom a n := by
  induction n generalizing k a with
  | zero => rfl
  | succ n ih => rw [State.samplesFrom, State.cellsFrom, sampleAt_determined s henv hbusy, ih]

/-- Settles O46: the range's bytes are the samples at its addresses in order, and each is the cell that readByte
would sample. -/
theorem readRangeCountAndOrder : Obligations.ReadRangeCountAndOrder := by
  intro s start stop hidle henv hbusy hle
  refine ⟨s.samplesFrom 0 start.toNat (stop.toNat - start.toNat + 1), by rw [readRange_idle s hidle hle],
    samplesFrom_length .., fun i h => ?_⟩
  rw [samplesFrom_getElem, readByte_idle s hidle, sampleAt_determined s henv hbusy,
    sampleAt_determined s henv hbusy]

/-- One pass of the loop sees of an address only whether it is the first and its bus address. -/
theorem readOne_congr {start start' : Addr} {a a' : Nat} (hfirst : a = start.toNat ↔ a' = start'.toNat)
    (hbus : busAddr (BitVec.ofNat 16 a) = busAddr (BitVec.ofNat 16 a')) :
    readOne start a s = readOne start' a' s := by
  have haddr : setAddress (BitVec.ofNat 16 a) s = setAddress (BitVec.ofNat 16 a') s := setAddress_congr hbus
  unfold readOne
  rw [haddr]
  by_cases h : a = start.toNat
  · rw [if_pos h, if_pos (hfirst.mp h)]
  · rw [if_neg h, if_neg (mt hfirst.mpr h)]

theorem busAddr_ofNat_add_high (a : Nat) :
    busAddr (BitVec.ofNat 16 (a + 0x8000)) = busAddr (BitVec.ofNat 16 a) := by
  rw [BitVec.ofNat_add]
  exact busAddr_add_high _

/-- The loop in the upper half of the addresses is the loop in the lower half. -/
theorem readLoop_add_high {start start' : Addr} (hstart : start.toNat = start'.toNat + 0x8000) (n a : Nat) :
    readLoop start n (a + 0x8000) s = readLoop start' n a s := by
  induction n generalizing a s with
  | zero => rfl
  | succ n ih =>
    have hone : readOne start (a + 0x8000) s = readOne start' a s :=
      readOne_congr s (by omega) (busAddr_ofNat_add_high a)
    rw [readLoop, readLoop, hone, show a + 0x8000 + 1 = a + 1 + 0x8000 by omega, ih]

theorem toNat_sub_high {a : Addr} (h : 0x8000#16 ≤ a) : a.toNat = (a - 0x8000#16).toNat + 0x8000 := by
  have hle : 0x8000 ≤ a.toNat := h
  have hsub := BitVec.toNat_sub_of_le h
  have hconst : (0x8000#16).toNat = 0x8000 := rfl
  omega

/-- Settles O48: reduced by 0x8000 the two ends compare alike, and the loops agree pass by pass. -/
theorem highRangesReduce : Obligations.HighRangesReduce := by
  intro s start stop hstart hstop
  have hs := toNat_sub_high hstart
  have he := toNat_sub_high hstop
  have hempty : stop - 0x8000#16 < start - 0x8000#16 ↔ stop < start := by
    rw [BitVec.lt_def, BitVec.lt_def]
    omega
  have hfirst : busAddr (start - 0x8000#16) = busAddr start := by
    rw [← busAddr_add_high (start - 0x8000#16), BitVec.sub_add_cancel]
  have hcount : stop.toNat - start.toNat = (stop - 0x8000#16).toNat - (start - 0x8000#16).toNat := by omega
  unfold readRange
  simp only [hempty, setAddress_congr hfirst, hcount]
  rw [hs]
  simp only [readLoop_add_high _ hs]

end Sys2Proof.Machine
end

section
/-! PROOFS. What an instruction does, said once (42_protocol.md sections 1 and 2): its part of S as a function of S
and the parameters alone, and the four instructions that perform an EEPROM Operation. -/

open Sys2Proof.Claims

namespace Sys2Proof.Machine

variable {s t : State} {i : Instr}

/-! ### The part of S -/

/-- append on S alone (R133). -/
def Session.appended (S : Session) (cfg : Config) (v : Byte) : Session :=
  if S.len < cfg.pageCap then { S with buf := S.buf ++ [v] } else { S with ovf := true }

theorem append_eq_appended (v : Byte) (s : State) :
    append v s = { s with session := s.session.appended s.cfg v } := by
  unfold append Session.appended
  split <;> rfl

section Appended
variable (S : Session) (cfg : Config) (v : Byte)
@[simp] theorem appended_st : (S.appended cfg v).st = S.st := by unfold Session.appended; split <;> rfl
@[simp] theorem appended_instr : (S.appended cfg v).instr = S.instr := by unfold Session.appended; split <;> rfl
@[simp] theorem appended_addr : (S.appended cfg v).addr = S.addr := by unfold Session.appended; split <;> rfl
@[simp] theorem appended_rsStart : (S.appended cfg v).rsStart = S.rsStart := by
  unfold Session.appended; split <;> rfl
@[simp] theorem appended_rsPending : (S.appended cfg v).rsPending = S.rsPending := by
  unfold Session.appended; split <;> rfl
@[simp] theorem appended_cancelSeen : (S.appended cfg v).cancelSeen = S.cancelSeen := by
  unfold Session.appended; split <;> rfl
end Appended

/-- S after an instruction: no rule lets the chip, the bus or a response reach S (20_memory.md R65). -/
def Session.after (S : Session) (cfg : Config) : Instr → Session
  | .writeByte .opcode => { S with instr := opWriteByte, st := .waitAddrHigh }
  | .writeByte (.addrHi b) => { S with addr := addrFromHigh b, st := .waitAddrLow }
  | .writeByte (.addrLo b) => { S with addr := addrWithLow S.addr b, st := .waitData }
  | .writeByte (.data _) => { S with st := .waitInstruction }
  | .writeStream .opcode => { S with instr := opWriteStream, st := .waitAddrHigh }
  | .writeStream (.addrHi b) => { S with addr := addrFromHigh b, st := .waitAddrLow }
  | .writeStream (.addrLo b) => { S with addr := addrWithLow S.addr b, st := .waitData }
  | .writeStream (.data b) => S.appended cfg b
  | .writeStream .mark => { S with cancelSeen := true }
  | .writeStream .escaped => { S with cancelSeen := false }.appended cfg opCancel
  | .writeStream (.terminator _) => { S with buf := [], ovf := false, cancelSeen := false, st := .waitInstruction }
  | .readByte .opcode => { S with instr := opReadByte, st := .waitAddrHigh }
  | .readByte (.addrHi b) => { S with addr := addrFromHigh b, st := .waitAddrLow }
  | .readByte (.addrLo b) => { S with addr := addrWithLow S.addr b, st := .waitInstruction }
  | .readStream .opcode => { S with instr := opReadStream, st := .waitAddrHigh }
  | .readStream (.startHi b) => { S with addr := addrFromHigh b, st := .waitAddrLow }
  | .readStream (.startLo b) =>
    { S with
      addr := addrWithLow S.addr b
      rsStart := addrWithLow S.addr b
      rsPending := pendingAfterStore cfg.sentinelAlias (addrWithLow S.addr b)
      st := .waitAddrHigh }
  | .readStream (.endHi b) => { S with addr := addrFromHigh b, st := .waitAddrLow }
  | .readStream (.endLo b) =>
    { S with addr := addrWithLow S.addr b, rsStart := rsSentinel, rsPending := false, st := .waitInstruction }
  | .handshake => S
  | .cancel => S
  | .unknown _ => S

/-- The status that a command without operands answers (R155 to R157). -/
def statusReply : Instr → List Byte
  | .handshake => [ackByte]
  | .cancel => [ackByte]
  | .unknown _ => [nakByte]
  | .writeByte _ => []
  | .writeStream _ => []
  | .readByte _ => []
  | .readStream _ => []

/-! ### The four instructions that operate, and all the others -/

theorem exec_writeByte_data (d : Byte) (s : State) : exec (.writeByte (.data d)) s =
    .next (enter .waitInstruction (respond ackByte (awaitWriteCycle (programByte d s.session.addr s)))) := rfl

theorem exec_writeStream_terminator (x : Byte) (s : State) :
    exec (.writeStream (.terminator x)) s = .next (flush (setCancelSeen false s)) := rfl

theorem exec_readByte_addrLo (b : Byte) (s : State) :
    exec (.readByte (.addrLo b)) s = .next (readDataAction (enter .readData (takeAddrLow b s))) := rfl

theorem exec_readStream_endLo (b : Byte) (s : State) :
    exec (.readStream (.endLo b)) s = .next (performRange (takeAddrLow b s)) := rfl

/-- An instruction that performs no EEPROM Operation changes S and answers its status, if it has one. -/
theorem exec_of_not_operates (hi : operates i = false) (s : State) : exec i s = .next
    { s with
      session := s.session.after s.cfg i
      tx := s.tx ++ statusReply i
      events := s.events ++ (statusReply i).map .tx } := by
  cases i with
  | writeByte r => cases r <;> simp [operates] at hi <;> simp [statusReply] <;> rfl
  | writeStream r =>
    cases r <;> simp [operates] at hi <;> simp only [statusReply, List.append_nil, List.map_nil]
    case data b => exact congrArg Host.Outcome.next (append_eq_appended b s)
    case escaped => exact congrArg Host.Outcome.next (append_eq_appended opCancel (setCancelSeen false s))
    all_goals rfl
  | readByte r => cases r <;> simp [operates] at hi <;> simp [statusReply] <;> rfl
  | readStream r => cases r <;> simp [operates] at hi <;> simp [statusReply] <;> rfl
  | handshake => rfl
  | cancel => rfl
  | unknown b => rfl

/-- The instructions that perform an EEPROM Operation. -/
theorem operates_cases (hi : operates i = true) :
    (∃ d, i = .writeByte (.data d)) ∨ (∃ x, i = .writeStream (.terminator x)) ∨
    (∃ b, i = .readByte (.addrLo b)) ∨ ∃ b, i = .readStream (.endLo b) := by
  cases i with
  | writeByte r => cases r <;> simp_all [operates]
  | writeStream r => cases r <;> simp_all [operates]
  | readByte r => cases r <;> simp_all [operates]
  | readStream r => cases r <;> simp_all [operates]
  | handshake => simp [operates] at hi
  | cancel => simp [operates] at hi
  | unknown b => simp [operates] at hi

/-- What an instruction can do. -/
theorem exec_cases (h : exec i s = .next t) :
    (operates i = false ∧ t = { s with
      session := s.session.after s.cfg i
      tx := s.tx ++ statusReply i
      events := s.events ++ (statusReply i).map .tx }) ∨
    (∃ d, i = .writeByte (.data d) ∧
      t = enter .waitInstruction (respond ackByte (awaitWriteCycle (programByte d s.session.addr s)))) ∨
    (∃ x, i = .writeStream (.terminator x) ∧ t = flush (setCancelSeen false s)) ∨
    (∃ b, i = .readByte (.addrLo b) ∧ t = readDataAction (enter .readData (takeAddrLow b s))) ∨
    ∃ b, i = .readStream (.endLo b) ∧ t = performRange (takeAddrLow b s) := by
  cases hi : operates i with
  | false =>
    rw [exec_of_not_operates hi] at h
    exact .inl ⟨rfl, by simpa using h.symm⟩
  | true =>
    rcases operates_cases hi with ⟨d, rfl⟩ | ⟨x, rfl⟩ | ⟨b, rfl⟩ | ⟨b, rfl⟩
    · rw [exec_writeByte_data] at h
      exact .inr (.inl ⟨d, rfl, by simpa using h.symm⟩)
    · rw [exec_writeStream_terminator] at h
      exact .inr (.inr (.inl ⟨x, rfl, by simpa using h.symm⟩))
    · rw [exec_readByte_addrLo] at h
      exact .inr (.inr (.inr (.inl ⟨b, rfl, by simpa using h.symm⟩)))
    · rw [exec_readStream_endLo] at h
      exact .inr (.inr (.inr (.inr ⟨b, rfl, by simpa using h.symm⟩)))

theorem exec_total (i : Instr) (s : State) : ∃ t, exec i s = .next t := by
  cases hi : operates i with
  | false => exact ⟨_, exec_of_not_operates hi s⟩
  | true => rcases operates_cases hi with ⟨d, rfl⟩ | ⟨x, rfl⟩ | ⟨b, rfl⟩ | ⟨b, rfl⟩ <;> exact ⟨_, rfl⟩

/-! ### S after the operating instructions -/

/-- The flush empties the buffer and leaves the addresses of S (R134). -/
@[simp] theorem flush_session (s : State) :
    (flush s).session = { s.session with buf := [], ovf := false, st := .waitInstruction } := by
  simp [flush, awaitWriteCycle]

/-- The READ_DATA action leaves of S all but S.st (R131). -/
@[simp] theorem readDataAction_session (s : State) :
    (readDataAction s).session = { s.session with st := .waitInstruction } := by
  simp [readDataAction, enter]

/-- The end of a READ_STREAM clears the pending start (R130). -/
@[simp] theorem performRange_session (s : State) : (performRange s).session =
    { s.session with rsStart := rsSentinel, rsPending := false, st := .waitInstruction } := by
  simp [performRange, enter, clearRangeStart]

/-- An instruction's part of S depends on S and the parameters alone. -/
theorem exec_session (h : exec i s = .next t) : t.session = s.session.after s.cfg i := by
  rcases exec_cases h with ⟨-, rfl⟩ | ⟨d, rfl, rfl⟩ | ⟨x, rfl, rfl⟩ | ⟨b, rfl, rfl⟩ | ⟨b, rfl, rfl⟩
  · rfl
  · simp [Session.after, enter, awaitWriteCycle]
  · rw [flush_session]
    rfl
  · rw [readDataAction_session]
    rfl
  · rw [performRange_session]
    rfl

/-! ### What every instruction leaves -/

@[simp] theorem readDataAction_chip (s : State) : (readDataAction s).chip = s.chip := by simp [readDataAction]
@[simp] theorem performRange_chip (s : State) : (performRange s).chip = s.chip := by simp [performRange]

@[simp] theorem delay_env (k : DelayKind) (s : State) : (delay k s).chip.env = s.chip.env := by
  unfold delay; split <;> rfl

/-- A programByte never changes the environment that the run names. -/
@[simp] theorem programByte_env (d : Byte) (a : Addr) (s : State) :
    (programByte d a s).chip.env = s.chip.env := by
  rw [programByte_chip]
  split <;> rfl

@[simp] theorem programFrom_env (addr : Addr) (k : Nat) (ds : List Byte) (s : State) :
    (programFrom addr k ds s).chip.env = s.chip.env := by
  induction ds generalizing k s with
  | nil => rfl
  | cons d ds ih => rw [programFrom, ih, programByte_env]

/-- The chip after a flush: the loop's, with the write cycle ended (R134, R60). -/
theorem flush_chip (s : State) : (flush s).chip =
    { (programFrom s.session.addr 0 s.session.buf s).chip with busy := false } := by
  simp [flush, awaitWriteCycle_chip]

/-- Settles O30: no operation and no write to S has these fields among those it changes. -/
theorem inputsAndParametersStay : Obligations.InputsAndParametersStay := by
  intro i s t h
  rcases exec_cases h with ⟨-, rfl⟩ | ⟨d, -, rfl⟩ | ⟨x, -, rfl⟩ | ⟨b, -, rfl⟩ | ⟨b, -, rfl⟩
  · exact ⟨rfl, rfl, rfl, rfl, rfl, rfl⟩
  · simp [awaitWriteCycle]
  · simp [flush_chip]
  · simp [readDataAction]
  · simp [performRange]

/-- Settles O31: which fields of S each instruction's part of S names. -/
theorem sessionFrame : Obligations.SessionFrame := by
  intro i s t h
  rw [exec_session h]
  cases i with
  | writeByte r => cases r <;> simp [Session.after, isOpcode, isAddrByte, isStreamByte, isRangeLow]
  | writeStream r => cases r <;> simp [Session.after, isOpcode, isAddrByte, isStreamByte, isRangeLow]
  | readByte r => cases r <;> simp [Session.after, isOpcode, isAddrByte, isStreamByte, isRangeLow]
  | readStream r => cases r <;> simp [Session.after, isOpcode, isAddrByte, isStreamByte, isRangeLow]
  | handshake => simp [Session.after]
  | cancel => simp [Session.after]
  | unknown b => simp [Session.after]

/-- Settles O32: the instructions that do not operate change S and answer a status. -/
theorem noOperationMovesNoLine : Obligations.NoOperationMovesNoLine := by
  intro i s t h hi
  rw [exec_of_not_operates hi] at h
  cases h
  exact ⟨rfl, rfl, rfl, rfl, fun _ => rfl⟩

/-- Settles O33: the byte goes through one programByte, whose cell frame holds in every posture. -/
theorem writeByteStoreFrame : Obligations.WriteByteStoreFrame := by
  intro s t d hwf h
  have hsession := exec_session h
  rw [exec_writeByte_data] at h
  cases h
  refine ⟨fun x hx => ?_, hsession, by simp [awaitWriteCycle, ackByte], by simp [awaitWriteCycle]⟩
  have hcell := programByte_cell_of_ne s hwf d hx
  simpa [State.cell, awaitWriteCycle_chip] using hcell

/-- Settles O34: the flush's loop is a programByte for each buffer index, and each has the cell frame. -/
theorem streamStoreFrame : Obligations.StreamStoreFrame := by
  intro s t x hwf h
  have hsession := exec_session h
  rw [exec_writeStream_terminator] at h
  cases h
  refine ⟨fun y hy => ?_, hsession, by simp⟩
  have hcell := programFrom_cell_of_ne s.session.addr y s.session.buf 0 (setCancelSeen false s) hwf
    (fun j _ hj => hy j (by simpa using hj))
  simpa [State.cell, flush_chip] using hcell

/-- What a read sequence leaves of the lines in every posture: the latch (D25) and write-enable. -/
theorem readOne_lines (start : Addr) (a : Nat) (s : State) :
    (readOne start a s).bus.dlatch = s.bus.dlatch ∧ (readOne start a s).bus.we = s.bus.we := by
  unfold readOne awaitOutputSettle
  split <;> simp

theorem readLoop_lines (start : Addr) (n a : Nat) (s : State) :
    (readLoop start n a s).bus.dlatch = s.bus.dlatch ∧ (readLoop start n a s).bus.we = s.bus.we := by
  induction n generalizing a s with
  | zero => exact ⟨rfl, rfl⟩
  | succ n ih =>
    obtain ⟨hlatch, hwe⟩ := ih (a + 1) (readOne start a s)
    obtain ⟨hlatch', hwe'⟩ := readOne_lines start a s
    exact ⟨hlatch.trans hlatch', hwe.trans hwe'⟩

theorem readRange_lines (start stop : Addr) (s : State) :
    (readRange start stop s).bus.dlatch = s.bus.dlatch ∧ (readRange start stop s).bus.we = s.bus.we := by
  unfold readRange
  split
  · exact ⟨rfl, rfl⟩
  · simp [endRead, readLoop_lines]

theorem readByte_lines (a : Addr) (s : State) :
    (readByte a s).2.bus.dlatch = s.bus.dlatch ∧ (readByte a s).2.bus.we = s.bus.we := by
  simp [readByte, endRead, awaitOutputSettle]

/-- Settles O35: both forms leave the chip, and their lines but the latch and write-enable. -/
theorem readFormsFrame : Obligations.ReadFormsFrame := by
  intro s t b
  refine ⟨fun h => exec_session h, fun h => exec_session h, fun h => ?_⟩
  rcases h with h | h
  · rw [exec_readByte_addrLo] at h
    cases h
    simp [State.cell, readDataAction, readByte_lines]
  · rw [exec_readStream_endLo] at h
    cases h
    simp [State.cell, performRange, readRange_lines]

/-! ### Whole next states -/

/-- Settles O16: none of these bytes operates; its part of S is the rule's. -/
theorem collectingBytesResult : Obligations.CollectingBytesResult := by
  intro s b
  refine ⟨rfl, rfl, rfl, rfl, fun i hi => ?_, fun i hi => ?_, rfl⟩
  · simp only [List.mem_cons, List.not_mem_nil, or_false] at hi
    rcases hi with rfl | rfl | rfl | rfl | rfl <;> rfl
  · simp only [List.mem_cons, List.not_mem_nil, or_false] at hi
    rcases hi with rfl | rfl <;> rfl

/-- Settles O17: a data byte and an escaped byte are one append, before and after the bit is cleared. -/
theorem streamDataBytesResult : Obligations.StreamDataBytesResult :=
  fun _ _ => ⟨rfl, rfl, rfl⟩

/-- A byte programmed and waited for, on the chip (R59, R60). -/
theorem programmed_awaited (c : Chip) (a : BusAddr) (d : Byte) :
    { c.programmed a d with busy := false } =
      { c with cells := c.cellsAfter (fun m => Memory.write m a.toNat d), busy := false } := by
  obtain ⟨env, cells, busy⟩ := c
  cases env <;> rfl

/-- Settles O18: programByte from the idle posture, the wait, the status. -/
theorem writeByteDataResult : Obligations.WriteByteDataResult := by
  intro s d hidle
  rw [exec_writeByte_data, programByte_idle s hidle, awaitWriteCycle, delay_wc]
  simp only [enter, respond, record, programmed_awaited, programTrace, busAfterProgram, List.append_assoc,
    List.cons_append, List.nil_append, ackByte]

/-- Settles O19: the flush from the idle posture, with the mark cleared before it. -/
theorem streamTerminatorResult : Obligations.StreamTerminatorResult := by
  intro s x hidle
  have hflush := flush_idle (setCancelSeen false s) hidle
  rw [exec_writeStream_terminator, hflush]
  rfl

/-- The READ_DATA action from the idle posture (R131, R116). -/
theorem readDataAction_idle (hidle : s.bus.Idle) : readDataAction s =
    { s with
      session.st := .waitInstruction
      bus.a := busAddr s.session.addr
      draws := s.drawsAfter 1
      tx := s.tx ++ [s.sampleAt 0 (busAddr s.session.addr)]
      events := s.events ++ readTrace s.session.addr (s.sampleAt 0 (busAddr s.session.addr)) ++
        [.tx (s.sampleAt 0 (busAddr s.session.addr))] } := by
  unfold readDataAction
  rw [readByte_idle s hidle]
  rfl

/-- Settles O20: the READ_DATA action from the idle posture, its sample a cell or a free draw. -/
theorem readByteResult : Obligations.ReadByteResult := by
  rintro s b a v hidle rfl rfl
  have hread := readDataAction_idle (s := enter .readData (takeAddrLow b s)) hidle
  rw [exec_readByte_addrLo, hread]
  by_cases hdet : s.chip.env = .reference ∧ s.chip.busy = false
  · simp [hdet, State.sampleAt, State.drawsAfter, State.determined, State.cell, readTrace, addrWithLow, enter,
      takeAddrLow]
  · have hdet' : s.determined = false := by
      rw [Bool.eq_false_iff]
      exact mt (determined_iff s).mp hdet
    simp only [State.determined] at hdet'
    simp [hdet, hdet', State.sampleAt, State.drawsAfter, State.determined, readTrace, addrWithLow, enter, takeAddrLow]

/-- A READ_STREAM's range from the idle posture (R118, R130). -/
theorem performRange_idle (hidle : s.bus.Idle) {n : Nat} (hle : s.session.rsStart ≤ s.session.addr)
    (hn : n = s.session.addr.toNat - s.session.rsStart.toNat + 1) : performRange s =
    { s with
      session := { s.session with rsStart := rsSentinel, rsPending := false, st := .waitInstruction }
      bus.a := busAddr s.session.addr
      draws := s.drawsAfter n
      tx := s.tx ++ s.samplesFrom 0 s.session.rsStart.toNat n
      events := s.events ++ rangeTrace s.session.rsStart (s.samplesFrom 0 s.session.rsStart.toNat n) } := by
  subst hn
  rw [performRange, readRange_idle s hidle hle]
  rfl

/-- A range whose start is above its end leaves all but S (R119). -/
theorem performRange_empty (hlt : s.session.addr < s.session.rsStart) : performRange s =
    { s with session := { s.session with rsStart := rsSentinel, rsPending := false, st := .waitInstruction } } := by
  rw [performRange, readRange_empty s hlt]
  rfl

/-- The samples of a state that differs from s in S alone are those of s. -/
theorem samplesFrom_session (S : Session) (s : State) (k a n : Nat) :
    State.samplesFrom { s with session := S } k a n = s.samplesFrom k a n :=
  samplesFrom_congr (s := s) (t := { s with session := S }) rfl (fun _ => rfl) a n rfl

/-- Settles O21: the address is assembled and the range read from the idle posture. -/
theorem readStreamEndResult : Obligations.ReadStreamEndResult := by
  rintro s b a n hidle rfl hle hn
  rw [exec_readStream_endLo, performRange_idle (s := takeAddrLow b s) hidle hle hn]
  simp only [takeAddrLow, samplesFrom_session]
  rfl

/-- Settles O22: the address is assembled and the range is empty. -/
theorem readStreamEmptyRange : Obligations.ReadStreamEmptyRange := by
  rintro s b a rfl hlt
  rw [exec_readStream_endLo, performRange_empty (s := takeAddrLow b s) hlt]
  rfl

/-- In the address states every byte read is an address byte. -/
theorem isAddrByte_of_expects {c : Context} (hst : c.st = .waitAddrHigh ∨ c.st = .waitAddrLow)
    (h : c.expects i = true) : isAddrByte i = true := by
  cases i with
  | writeByte r => cases r <;> rcases hst with hst | hst <;> simp_all [Context.expects, isAddrByte]
  | writeStream r => cases r <;> rcases hst with hst | hst <;> simp_all [Context.expects, isAddrByte]
  | readByte r => cases r <;> rcases hst with hst | hst <;> simp_all [Context.expects, isAddrByte]
  | readStream r => cases r <;> rcases hst with hst | hst <;> simp_all [Context.expects, isAddrByte]
  | handshake => rcases hst with hst | hst <;> simp [Context.expects, hst] at h
  | cancel => rcases hst with hst | hst <;> simp [Context.expects, hst] at h
  | unknown b => rcases hst with hst | hst <;> simp [Context.expects, hst] at h

/-- Settles O23: the results are the three commands' own; where their bytes mean them is what the byte decoder's two
directions say. -/
theorem statusCommandsResult : Obligations.StatusCommandsResult := by
  refine ⟨fun _ => rfl, fun _ => rfl, fun _ _ => rfl, fun c b => ⟨?addr, ?writeByte, ?writeStream⟩,
    fun c b => ⟨?handshake, ?cancel, ?unknown⟩⟩
  case addr =>
    intro hst i hi
    obtain ⟨-, -, hexpects⟩ := decode_sound hi
    exact isAddrByte_of_expects hst hexpects
  case writeByte => exact fun hst hinstr => decode_waitData_writeByte hst hinstr b
  case writeStream =>
    intro hst hinstr
    rw [decode_waitData_writeStream hst hinstr]
    cases c.cancelSeen <;> rfl
  case handshake =>
    refine ⟨fun h => ?_, fun ⟨hst, hb⟩ => hb ▸ decode_waitInstruction hst b⟩
    obtain ⟨hbyte, -, hexpects⟩ := decode_sound h
    exact ⟨by simpa [Context.expects] using hexpects, hbyte.symm⟩
  case cancel =>
    refine ⟨fun h => ?_, fun ⟨hst, hb⟩ => hb ▸ decode_waitInstruction hst b⟩
    obtain ⟨hbyte, -, hexpects⟩ := decode_sound h
    exact ⟨by simpa [Context.expects] using hexpects, hbyte.symm⟩
  case unknown =>
    rw [← isCommandByte_eq_false_iff]
    refine ⟨fun h => ?_, fun ⟨hst, hb⟩ => by rw [decode_waitInstruction hst, decodeCommand_unknown b hb]⟩
    obtain ⟨-, hwf, hexpects⟩ := decode_sound h
    exact ⟨by simpa [Context.expects] using hexpects, by simpa [Instr.wf] using hwf⟩

end Sys2Proof.Machine
end

section
/-! PROOFS. The step of each protocol state (42_protocol.md R125 to R135), S along a run, and the gate
(60_exceptions.md R184, R185). -/

namespace Sys2Proof.Machine

variable {s t : State} {b : Byte} {rest : List Byte}

/-! ### One step -/

/-- The step of a byte that the decoder rejects by name (log 4). -/
theorem step_of_decode_error (hrun : s.phase = .run) (hrx : s.rx = b :: rest) {r : Reject}
    (hdec : decode s.context b = .error r) : step s = .next (runRejected r b { s with rx := rest }) := by
  rw [step_byte s hrun hrx, hdec]

/-- With Rx empty the core waits (R126, log 3). -/
theorem step_of_rx_nil (hrun : s.phase = .run) (hrx : s.rx = []) : step s = .next s := by
  simp only [step, takeByte, hrun, hrx]

theorem step_total (s : State) : ∃ t, step s = .next t := by
  cases hp : s.phase with
  | gated => exact ⟨_, step_gated s hp⟩
  | run =>
    cases hr : s.rx with
    | nil => exact ⟨_, step_of_rx_nil hp hr⟩
    | cons b rest =>
      cases hd : decode s.context b with
      | ok i =>
        rw [step_of_decode_ok hp hr hd]
        exact exec_total i _
      | error r => exact ⟨_, step_of_decode_error hp hr hd⟩

/-- Settles O8: the RUN phase's step with a byte the decoder accepts. -/
theorem stepRunsTheDecodedInstruction : Obligations.StepRunsTheDecodedInstruction :=
  fun _ _ _ _ hrun hrx hdec => step_of_decode_ok hrun hrx hdec

/-- Settles O9: every meaning answers a next state, and a poll, a wait and a rejected byte do too. -/
theorem nothingIsFatal : Obligations.NothingIsFatal := ⟨exec_total, step_total⟩

/-! ### The address states and the recovery -/

/-- Without a command in S.instr an address byte is rejected by name. -/
theorem decode_waitAddrHigh_orphan {c : Context} (hst : c.st = .waitAddrHigh) (hinstr : commandOf c.instr = none)
    (b : Byte) : decode c b = .error .orphanAddrHigh := by
  simp only [decode, hst, decodeAddrHigh, hinstr]

theorem decode_waitAddrLow_orphan {c : Context} (hst : c.st = .waitAddrLow) (hinstr : commandOf c.instr = none)
    (b : Byte) : decode c b = .error .orphanAddrLow := by
  simp only [decode, hst, decodeAddrLow, hinstr]

/-- Without a write command in S.instr a data byte is rejected by name. -/
theorem decode_waitData_orphan {c : Context} (hst : c.st = .waitData) (hinstr : c.instr ∉ [0x01#8, 0x02#8])
    (b : Byte) : decode c b = .error .orphanData := by
  obtain ⟨r, hr⟩ := (decodeData_rejects_iff c b).mpr hinstr
  simp only [decode, hst, hr]
  unfold decodeData at hr
  split at hr <;> cases hr <;> rfl

/-- Settles O12: the four commands' high bytes and the byte of none have one transition. -/
theorem waitAddrHighRule : Obligations.WaitAddrHighRule := by
  intro s b rest hrun hrx hst
  cases hk : commandOf s.session.instr with
  | none => exact step_of_decode_error hrun hrx (decode_waitAddrHigh_orphan hst hk b)
  | some k =>
    have hdec : ∀ i, decodeAddrHigh s.context b = .ok i → step s = exec i { s with rx := rest } := by
      intro i hi
      exact step_of_decode_ok hrun hrx (by simp only [decode, context_st, hst, hi])
    simp only [decodeAddrHigh, context_instr, hk] at hdec
    cases k with
    | writeByte => exact hdec _ rfl
    | writeStream => exact hdec _ rfl
    | readByte => exact hdec _ rfl
    | readStream =>
      refine (hdec _ rfl).trans ?_
      cases s.context.rsPending <;> rfl

section AddrLow
variable {c : Context}
theorem decode_waitAddrLow_writeByte (hst : c.st = .waitAddrLow) (hinstr : c.instr = opWriteByte) (b : Byte) :
    decode c b = .ok (.writeByte (.addrLo b)) := by
  simp only [decode, hst, decodeAddrLow, hinstr, commandOf_writeByte]

theorem decode_waitAddrLow_writeStream (hst : c.st = .waitAddrLow) (hinstr : c.instr = opWriteStream) (b : Byte) :
    decode c b = .ok (.writeStream (.addrLo b)) := by
  simp only [decode, hst, decodeAddrLow, hinstr, commandOf_writeStream]

theorem decode_waitAddrLow_readByte (hst : c.st = .waitAddrLow) (hinstr : c.instr = opReadByte) (b : Byte) :
    decode c b = .ok (.readByte (.addrLo b)) := by
  simp only [decode, hst, decodeAddrLow, hinstr, commandOf_readByte]

theorem decode_waitAddrLow_readStream (hst : c.st = .waitAddrLow) (hinstr : c.instr = opReadStream) (b : Byte) :
    decode c b = .ok (.readStream (rangeLoRole c.rsPending b)) := by
  simp only [decode, hst, decodeAddrLow, hinstr, commandOf_readStream]
end AddrLow

/-- Settles O13: one case for each command and, for READ_STREAM, each value of S.rsPending. -/
theorem waitAddrLowRule : Obligations.WaitAddrLowRule := by
  rintro s _ b rest hrun hrx hst rfl
  refine ⟨fun hinstr => ?write, fun hinstr => ?readByte, fun hinstr hpend => ?start, fun hinstr hpend => ?stop⟩
  case write =>
    rcases hinstr with hinstr | hinstr
    · exact step_of_decode_ok hrun hrx (decode_waitAddrLow_writeByte hst hinstr b)
    · exact step_of_decode_ok hrun hrx (decode_waitAddrLow_writeStream hst hinstr b)
  case readByte => exact step_of_decode_ok hrun hrx (decode_waitAddrLow_readByte hst hinstr b)
  case start =>
    rw [step_of_decode_ok hrun hrx (decode_waitAddrLow_readStream hst hinstr b), context_rsPending, hpend]
    rfl
  case stop =>
    rw [step_of_decode_ok hrun hrx (decode_waitAddrLow_readStream hst hinstr b), context_rsPending, hpend,
      rangeLoRole, exec_readStream_endLo]
    simp [performRange, enter, clearRangeStart, takeAddrLow, addrWithLow, rsSentinel]

/-- Settles O15: the byte is rejected by name, and the recovery moves S.st. -/
theorem recoveryRule : Obligations.RecoveryRule := by
  intro s b rest hrun hrx
  refine ⟨fun hst hinstr => ?_, fun hst hinstr => ?_⟩
  · have hnone := (commandOf_eq_none_iff _).mpr hinstr
    exact step_of_decode_error hrun hrx (decode_waitAddrLow_orphan hst hnone b)
  · exact step_of_decode_error hrun hrx (decode_waitData_orphan hst hinstr b)

/-! ### S along a run -/

/-- What decides a byte's meaning, as a function of S (30_encoding.md R75). -/
def Session.context (S : Session) : Context := ⟨S.st, S.instr, S.rsPending, S.cancelSeen⟩

theorem state_context_eq (s : State) : s.context = s.session.context := rfl

/-- S after a byte that the decoder rejects by name (R128, R135, R131; log 4). -/
def Session.afterRejected (S : Session) (b : Byte) : Reject → Session
  | .orphanAddrHigh => { S with addr := addrFromHigh b, st := .waitAddrLow }
  | .orphanAddrLow => { S with addr := addrWithLow S.addr b, st := .waitInstruction }
  | .orphanData => { S with st := .waitInstruction }
  | .heldReadData => { S with st := .waitInstruction }

/-- S after a byte, a function of S and the parameters alone. -/
def Session.afterByte (S : Session) (cfg : Config) (b : Byte) : Session :=
  match decode S.context b with
  | .ok i => S.after cfg i
  | .error r => S.afterRejected b r

theorem afterByte_of_decode_ok {S : Session} {i : Instr} (h : decode S.context b = .ok i) (cfg : Config) :
    S.afterByte cfg b = S.after cfg i := by
  rw [Session.afterByte, h]

theorem afterByte_of_decode_error {S : Session} {r : Reject} (h : decode S.context b = .error r) (cfg : Config) :
    S.afterByte cfg b = S.afterRejected b r := by
  rw [Session.afterByte, h]

/-- A rejected byte moves S and, at a held READ_DATA, performs the READ_DATA action. -/
theorem runRejected_session (r : Reject) (b : Byte) (s : State) :
    (runRejected r b s).session = s.session.afterRejected b r := by
  cases r with
  | heldReadData => exact readDataAction_session s
  | orphanAddrHigh => rfl
  | orphanAddrLow => rfl
  | orphanData => rfl

/-- What a rejected byte leaves of the core's other fields and of the channels. -/
theorem runRejected_keeps (r : Reject) (b : Byte) (s : State) :
    (runRejected r b s).cfg = s.cfg ∧ (runRejected r b s).phase = s.phase ∧ (runRejected r b s).rx = s.rx ∧
    (runRejected r b s).conn = s.conn ∧ (runRejected r b s).ind = s.ind := by
  cases r <;> simp [runRejected, recover, readDataAction]

/-- A step with a byte in Rx: S moves as a function of S, the byte leaves Rx, the rest of the core stays. -/
structure ByteTaken (s : State) (b : Byte) (rest : List Byte) (t : State) : Prop where
  session : t.session = s.session.afterByte s.cfg b
  rx : t.rx = rest
  phase : t.phase = .run
  cfg : t.cfg = s.cfg
  conn : t.conn = s.conn
  ind : t.ind = s.ind

theorem step_takes_byte (hrun : s.phase = .run) (hrx : s.rx = b :: rest) (h : step s = .next t) :
    ByteTaken s b rest t := by
  cases hd : decode s.context b with
  | ok i =>
    rw [step_of_decode_ok hrun hrx hd] at h
    obtain ⟨hcfg, hphase, hrx', hconn, hind, -⟩ := inputsAndParametersStay i _ t h
    exact ⟨by rw [exec_session h, afterByte_of_decode_ok hd], hrx', hphase.trans hrun, hcfg, hconn, hind⟩
  | error r =>
    rw [step_of_decode_error hrun hrx hd] at h
    cases h
    obtain ⟨hcfg, hphase, hrx', hconn, hind⟩ := runRejected_keeps r b { s with rx := rest }
    exact ⟨by rw [runRejected_session, afterByte_of_decode_error hd], hrx', hphase.trans hrun, hcfg, hconn, hind⟩

theorem step_keeps_run (hrun : s.phase = .run) (h : step s = .next t) : t.phase = .run := by
  cases hrx : s.rx with
  | nil =>
    rw [step_of_rx_nil hrun hrx] at h
    cases h
    exact hrun
  | cons b rest => exact (step_takes_byte hrun hrx h).phase

/-- Settles O52: by induction on the number of steps. -/
theorem neverGatedAgain : Obligations.NeverGatedAgain := by
  intro k
  induction k with
  | zero =>
    intro s t hrun h
    cases h
    exact hrun
  | succ k ih =>
    intro s t hrun h
    obtain ⟨u, hu⟩ := step_total s
    rw [runSteps_succ s k hu] at h
    exact ih u t (step_keeps_run hrun hu) h

/-- An opcode's byte is one of the four, and S.instr then holds it (R127). -/
theorem after_instr_of_isOpcode {i : Instr} (h : Claims.isOpcode i = true) (S : Session) (cfg : Config) :
    encodeByte i ∈ [0x01#8, 0x02#8, 0x03#8, 0x04#8] ∧ (S.after cfg i).instr = encodeByte i := by
  cases i with
  | writeByte r => cases r <;> simp_all [Claims.isOpcode, Session.after, encodeByte, opWriteByte]
  | writeStream r => cases r <;> simp_all [Claims.isOpcode, Session.after, encodeByte, opWriteStream]
  | readByte r => cases r <;> simp_all [Claims.isOpcode, Session.after, encodeByte, opReadByte]
  | readStream r => cases r <;> simp_all [Claims.isOpcode, Session.after, encodeByte, opReadStream]
  | handshake => cases h
  | cancel => cases h
  | unknown b => cases h

/-- An opcode stands at WAIT_INSTRUCTION alone. -/
theorem waitInstruction_of_isOpcode {i : Instr} (h : Claims.isOpcode i = true) {c : Context}
    (hc : c.expects i = true) : c.st = .waitInstruction := by
  cases i with
  | writeByte r => cases r <;> simp_all [Claims.isOpcode, Context.expects]
  | writeStream r => cases r <;> simp_all [Claims.isOpcode, Context.expects]
  | readByte r => cases r <;> simp_all [Claims.isOpcode, Context.expects]
  | readStream r => cases r <;> simp_all [Claims.isOpcode, Context.expects]
  | handshake => cases h
  | cancel => cases h
  | unknown b => cases h

@[simp] theorem gatePoll_session (s : State) : (gatePoll s).session = s.session := by
  unfold gatePoll
  dsimp only
  split <;> simp [blink]

@[simp] theorem afterRejected_instr (S : Session) (b : Byte) (r : Reject) :
    (S.afterRejected b r).instr = S.instr := by
  cases r <;> rfl

/-- Settles O53: of the things a step can do, only an opcode's instruction writes S.instr. -/
theorem instrWrittenOnlyByCommands : Obligations.InstrWrittenOnlyByCommands := by
  intro s t h hne
  rcases step_cases s h with ⟨-, rfl⟩ | ⟨-, -, rfl⟩ | ⟨hrun, b, rest, i, hrx, hdec, hexec⟩ |
      ⟨-, b, rest, r, -, -, rfl⟩
  · exact absurd (congrArg Session.instr (gatePoll_session s)) hne
  · exact absurd rfl hne
  · have hsession := exec_session hexec
    have hop : Claims.isOpcode i = true := by
      by_contra hop
      obtain ⟨hinstr, -⟩ := sessionFrame i _ t hexec
      exact hne (hinstr (by simpa using hop))
    obtain ⟨hbyte, -, hexpects⟩ := decode_sound hdec
    obtain ⟨hmem, hinstr⟩ := after_instr_of_isOpcode hop s.session s.cfg
    refine ⟨hrun, waitInstruction_of_isOpcode hop hexpects, b, rest, hrx, hbyte ▸ hmem, ?_⟩
    rw [hsession]
    exact hinstr.trans hbyte
  · exact absurd (by rw [runRejected_session, afterRejected_instr]) hne

/-! ### The gate -/

/-- Settles O57: the level that the poll observes decides between RUN and one half-period. -/
theorem gatePollRule : Obligations.GatePoll := by
  intro s levels hgated
  rw [step_gated s hgated]
  refine ⟨fun hconn => ?_, fun hconn => ?_⟩
  · simp [gatePoll, connLevel, hconn]
  · rcases hconn with hconn | ⟨hconn, rfl⟩ <;> simp [gatePoll, connLevel, hconn, blink, delay, record]

/-- n polls without a connection are n half-periods of the indicator, and the next one passes. -/
theorem runSteps_gate (levels : List Bool) (n : Nat) (s : State) (hgated : s.phase = .gated)
    (hconn : s.conn = List.replicate n false ++ true :: levels) :
    ∃ es, es.length = 2 * n ∧ runSteps (n + 1) s = .next { s with
      conn := levels
      phase := .run
      ind := if n % 2 = 0 then s.ind else !s.ind
      events := s.events ++ es } := by
  induction n generalizing s with
  | zero =>
    obtain ⟨hpass, -⟩ := gatePollRule s levels hgated
    refine ⟨[], rfl, ?_⟩
    rw [runSteps_succ s 0 (hpass hconn), List.append_nil]
    rfl
  | succ n ih =>
    obtain ⟨-, hblink⟩ := gatePollRule s (List.replicate n false ++ true :: levels) hgated
    rw [List.replicate_succ, List.cons_append] at hconn
    rw [runSteps_succ s (n + 1) (hblink (.inl hconn))]
    obtain ⟨es, hlen, hrun⟩ := ih
      { s with
        conn := List.replicate n false ++ true :: levels
        ind := !s.ind
        events := s.events ++ [.delay .blink, .ind (!s.ind)] } hgated rfl
    refine ⟨[.delay .blink, .ind (!s.ind)] ++ es, by simp [hlen]; omega, ?_⟩
    rw [hrun]
    rcases Nat.mod_two_eq_zero_or_one n with hn | hn
    · simp [hn, show (n + 1) % 2 ≠ 0 by omega]
    · simp [hn, show (n + 1) % 2 = 0 by omega]

/-- Settles O58: the polls without a connection, then the one that observes it. -/
theorem gatePassesAtTheFirstConnection : Obligations.GatePassesAtTheFirstConnection := by
  intro s n levels hgated hconn
  obtain ⟨es, hlen, hrun⟩ := runSteps_gate levels n s hgated hconn
  exact ⟨_, hrun, rfl, rfl, rfl, rfl, rfl, rfl, rfl, by simp [stepEvents, hlen]⟩

/-- Settles O59: the reset values, field by field. -/
theorem resetValues : Obligations.ResetValues :=
  ⟨rfl, rfl, rfl, rfl, rfl, rfl, rfl, rfl, rfl, rfl, rfl, rfl, rfl, rfl, rfl, rfl⟩

end Sys2Proof.Machine
end

section
/-! PROOFS. The events of a step are the whole record of what it does outside S (00_scope.md R17, 20_memory.md R63),
and a step looks at no byte behind the one it takes (10_state.md R41). -/

namespace Sys2Proof.Machine

variable {s t u : State} {es fs : List Event}

/-! ### The operations move none of S, the phase, Rx and CONN, and look at none of them -/

/-- The same state with another S, phase, Rx and CONN. -/
def State.withCore (s : State) (S : Session) (p : Phase) (rx : List Byte) (conn : List Bool) : State :=
  { s with session := S, phase := p, rx := rx, conn := conn }

section WithCore
variable (s : State) (S : Session) (p : Phase) (rx : List Byte) (conn : List Bool)

theorem faultIf_withCore (c : Bool) (f : Fault) :
    faultIf c f (s.withCore S p rx conn) = (faultIf c f s).withCore S p rx conn := by
  unfold faultIf
  split <;> rfl

theorem checkPosture_withCore :
    checkPosture (s.withCore S p rx conn) = (checkPosture s).withCore S p rx conn := by
  unfold checkPosture
  rw [← faultIf_withCore, ← faultIf_withCore]
  rfl

theorem setAddress_withCore (a : Addr) :
    setAddress a (s.withCore S p rx conn) = (setAddress a s).withCore S p rx conn := by
  unfold setAddress
  rw [← checkPosture_withCore]
  rfl

theorem setDataDirection_withCore (d : Dir) :
    setDataDirection d (s.withCore S p rx conn) = (setDataDirection d s).withCore S p rx conn := by
  unfold setDataDirection
  rw [← checkPosture_withCore]
  rfl

theorem setOutputEnable_withCore (x : Bool) :
    setOutputEnable x (s.withCore S p rx conn) = (setOutputEnable x s).withCore S p rx conn := by
  unfold setOutputEnable
  rw [← checkPosture_withCore]
  rfl

theorem setDataOut_withCore (v : Byte) :
    setDataOut v (s.withCore S p rx conn) = (setDataOut v s).withCore S p rx conn := by
  unfold setDataOut
  rw [faultIf_withCore, ← checkPosture_withCore]
  rfl

theorem chipLatch_withCore : chipLatch (s.withCore S p rx conn) = (chipLatch s).withCore S p rx conn := by
  by_cases h : s.chip.env = .reference
  · rw [chipLatch, chipLatch, if_pos h]
    exact if_pos h
  · rw [chipLatch, chipLatch, if_neg h]
    exact if_neg h

theorem setWriteEnable_withCore (x : Bool) :
    setWriteEnable x (s.withCore S p rx conn) = (setWriteEnable x s).withCore S p rx conn := by
  have hbus : (s.withCore S p rx conn).bus = s.bus := rfl
  unfold setWriteEnable
  dsimp only
  rw [hbus, faultIf_withCore, chipLatch_withCore, ← checkPosture_withCore]
  cases s.bus.we && !x <;> rfl

theorem sampleLines_withCore : sampleLines (s.withCore S p rx conn) =
    ((sampleLines s).1, (sampleLines s).2.withCore S p rx conn) := by
  by_cases h : s.chip.env = .reference ∧ s.bus.readPosture = true ∧ s.chip.busy = false
  · rw [sampleLines_cell s h]
    exact sampleLines_cell _ h
  · rw [sampleLines_free s h]
    exact sampleLines_free _ h

theorem readDataIn_withCore : readDataIn (s.withCore S p rx conn) =
    ((readDataIn s).1, (readDataIn s).2.withCore S p rx conn) := by
  unfold readDataIn
  dsimp only
  rw [faultIf_withCore, sampleLines_withCore, ← checkPosture_withCore]
  rfl

theorem delay_withCore (k : DelayKind) :
    delay k (s.withCore S p rx conn) = (delay k s).withCore S p rx conn := by
  unfold delay
  split <;> rfl

theorem respond_withCore (b : Byte) :
    respond b (s.withCore S p rx conn) = (respond b s).withCore S p rx conn := rfl

theorem perform_withCore (e : Event) :
    perform (s.withCore S p rx conn) e = (perform s e).withCore S p rx conn := by
  cases e with
  | setA a => exact setAddress_withCore ..
  | setDir d => exact setDataDirection_withCore ..
  | setD v => exact setDataOut_withCore ..
  | we x => exact setWriteEnable_withCore ..
  | oe x => exact setOutputEnable_withCore ..
  | sample v => exact congrArg Prod.snd (readDataIn_withCore ..)
  | delay k => exact delay_withCore ..
  | ind x => rfl
  | tx b => rfl

theorem performAll_withCore (es : List Event) :
    performAll es (s.withCore S p rx conn) = (performAll es s).withCore S p rx conn := by
  induction es generalizing s with
  | nil => rfl
  | cons e es ih => rw [performAll_cons, performAll_cons, perform_withCore, ih]

theorem programByte_withCore (d : Byte) (a : Addr) :
    programByte d a (s.withCore S p rx conn) = (programByte d a s).withCore S p rx conn := by
  simp only [programByte, setAddress_withCore, setDataDirection_withCore, setDataOut_withCore,
    setWriteEnable_withCore, delay_withCore]

theorem programFrom_withCore (a : Addr) (i : Nat) (ds : List Byte) :
    programFrom a i ds (s.withCore S p rx conn) = (programFrom a i ds s).withCore S p rx conn := by
  induction ds generalizing i s with
  | nil => rfl
  | cons d ds ih => rw [programFrom, programFrom, programByte_withCore, ih]

theorem endRead_withCore : endRead (s.withCore S p rx conn) = (endRead s).withCore S p rx conn := by
  simp only [endRead, setOutputEnable_withCore, setDataDirection_withCore]

theorem readByte_withCore (a : Addr) : readByte a (s.withCore S p rx conn) =
    ((readByte a s).1, (readByte a s).2.withCore S p rx conn) := by
  simp only [readByte, setDataDirection_withCore, setAddress_withCore, setOutputEnable_withCore, awaitOutputSettle,
    delay_withCore, readDataIn_withCore, endRead_withCore]

theorem readOne_withCore (start : Addr) (a : Nat) :
    readOne start a (s.withCore S p rx conn) = (readOne start a s).withCore S p rx conn := by
  unfold readOne awaitOutputSettle
  split <;> simp only [setAddress_withCore, delay_withCore, readDataIn_withCore, respond_withCore]

theorem readLoop_withCore (start : Addr) (n a : Nat) :
    readLoop start n a (s.withCore S p rx conn) = (readLoop start n a s).withCore S p rx conn := by
  induction n generalizing a s with
  | zero => rfl
  | succ n ih => rw [readLoop, readLoop, readOne_withCore, ih]

theorem readRange_withCore (start stop : Addr) :
    readRange start stop (s.withCore S p rx conn) = (readRange start stop s).withCore S p rx conn := by
  unfold readRange
  split
  · rfl
  · simp only [setDataDirection_withCore, setAddress_withCore, setOutputEnable_withCore, readLoop_withCore,
      endRead_withCore]
end WithCore

/-! ### Rx is not looked at -/

/-- The same state with other bytes in Rx. -/
def State.withRx (s : State) (rx : List Byte) : State := { s with rx := rx }

section WithRx
variable (s : State) (rx : List Byte)

theorem withRx_eq_withCore : s.withRx rx = s.withCore s.session s.phase rx s.conn := rfl

theorem programFrom_withRx (a : Addr) (i : Nat) (ds : List Byte) :
    programFrom a i ds (s.withRx rx) = (programFrom a i ds s).withRx rx := by
  rw [withRx_eq_withCore, programFrom_withCore, withRx_eq_withCore]
  simp

theorem programByte_withRx (d : Byte) (a : Addr) :
    programByte d a (s.withRx rx) = (programByte d a s).withRx rx := by
  rw [withRx_eq_withCore, programByte_withCore, withRx_eq_withCore]
  simp

theorem readByte_withRx (a : Addr) :
    readByte a (s.withRx rx) = ((readByte a s).1, (readByte a s).2.withRx rx) := by
  rw [withRx_eq_withCore, readByte_withCore, withRx_eq_withCore]
  simp

theorem readRange_withRx (start stop : Addr) :
    readRange start stop (s.withRx rx) = (readRange start stop s).withRx rx := by
  rw [withRx_eq_withCore, readRange_withCore, withRx_eq_withCore]
  simp

theorem readDataAction_withRx : readDataAction (s.withRx rx) = (readDataAction s).withRx rx := by
  have hread : readByte (s.withRx rx).session.addr (s.withRx rx) =
      ((readByte s.session.addr s).1, (readByte s.session.addr s).2.withRx rx) := readByte_withRx s rx s.session.addr
  unfold readDataAction
  rw [hread]
  rfl

theorem performRange_withRx : performRange (s.withRx rx) = (performRange s).withRx rx := by
  have hrange : readRange (s.withRx rx).session.rsStart (s.withRx rx).session.addr (s.withRx rx) =
      (readRange s.session.rsStart s.session.addr s).withRx rx := readRange_withRx s rx _ _
  unfold performRange
  rw [hrange]
  rfl

theorem flush_withRx : flush (s.withRx rx) = (flush s).withRx rx := by
  have hloop : programFrom (s.withRx rx).session.addr 0 (s.withRx rx).session.buf (s.withRx rx) =
      (programFrom s.session.addr 0 s.session.buf s).withRx rx := programFrom_withRx s rx _ _ _
  unfold flush
  rw [hloop]
  rfl
end WithRx

/-- An instruction does the same whatever bytes wait in Rx. -/
theorem exec_withRx {i : Instr} (h : exec i s = .next t) (rx : List Byte) :
    exec i (s.withRx rx) = .next (t.withRx rx) := by
  rcases exec_cases h with ⟨hi, rfl⟩ | ⟨d, rfl, rfl⟩ | ⟨x, rfl, rfl⟩ | ⟨b, rfl, rfl⟩ | ⟨b, rfl, rfl⟩
  · exact exec_of_not_operates hi _
  · have hprogram : programByte d (s.withRx rx).session.addr (s.withRx rx) =
        (programByte d s.session.addr s).withRx rx := programByte_withRx s rx d _
    rw [exec_writeByte_data, hprogram]
    rfl
  · exact congrArg Host.Outcome.next (flush_withRx (setCancelSeen false s) rx)
  · exact congrArg Host.Outcome.next (readDataAction_withRx (enter .readData (takeAddrLow b s)) rx)
  · exact congrArg Host.Outcome.next (performRange_withRx (takeAddrLow b s) rx)

theorem runRejected_withRx (r : Reject) (b : Byte) (s : State) (rx : List Byte) :
    runRejected r b (s.withRx rx) = (runRejected r b s).withRx rx := by
  cases r with
  | heldReadData => exact readDataAction_withRx s rx
  | orphanAddrHigh => rfl
  | orphanAddrLow => rfl
  | orphanData => rfl

/-- Settles O10: the byte is decoded in a context without Rx, and what follows does the same whatever waits there. -/
theorem oneByteAStepWithoutLookahead : Obligations.OneByteAStepWithoutLookahead := by
  refine ⟨fun s t b rest later hrun h => ?_, fun s hrun hrx => step_of_rx_nil hrun hrx⟩
  refine ⟨(step_takes_byte (s := { s with rx := b :: rest }) hrun rfl h).rx, ?_⟩
  cases hd : decode s.context b with
  | ok i =>
    rw [step_of_decode_ok (s := { s with rx := b :: rest }) hrun rfl hd] at h
    rw [step_of_decode_ok (s := { s with rx := b :: later }) hrun rfl hd]
    exact exec_withRx h later
  | error r =>
    rw [step_of_decode_error (s := { s with rx := b :: rest }) hrun rfl hd] at h
    rw [step_of_decode_error (s := { s with rx := b :: later }) hrun rfl hd]
    cases h
    exact congrArg Host.Outcome.next (runRejected_withRx r b { s with rx := rest } later)

/-! ### Replay -/

/-- From s to t the events es are recorded, and doing them again does all that was done but for S, the phase, Rx
and CONN. -/
structure Records (es : List Event) (s t : State) : Prop where
  events : t.events = s.events ++ es
  replay : (performAll es s).withCore t.session t.phase t.rx t.conn = t

/-- S, the phase, Rx and CONN are no event's matter. -/
theorem Records.of_core (S : Session) (p : Phase) (rx : List Byte) (conn : List Bool) :
    Records [] s (s.withCore S p rx conn) := ⟨(List.append_nil _).symm, rfl⟩

theorem Records.trans (h : Records es s t) (h' : Records fs t u) : Records (es ++ fs) s u where
  events := by rw [h'.events, h.events, List.append_assoc]
  replay := by
    have hreplay := h'.replay
    rw [← h.replay, performAll_withCore] at hreplay
    rw [performAll_append]
    exact hreplay

/-- An operation that is one event's own does what the event does. -/
theorem Records.of_perform {e : Event} (hevents : (perform s e).events = s.events ++ [e]) :
    Records [e] s (perform s e) where
  events := hevents
  replay := rfl

theorem records_setAddress (a : Addr) (s : State) : Records [.setA (busAddr a)] s (setAddress a s) := by
  have h := Records.of_perform (s := s) (e := .setA (busAddr a)) (by rw [perform_setA, setAddress_events])
  rwa [perform_setA] at h

theorem records_setDataDirection (d : Dir) (s : State) : Records [.setDir d] s (setDataDirection d s) :=
  Records.of_perform (e := .setDir d) (setDataDirection_events s d)

theorem records_setDataOut (v : Byte) (s : State) : Records [.setD v] s (setDataOut v s) :=
  Records.of_perform (e := .setD v) (setDataOut_events s v)

theorem records_setWriteEnable (x : Bool) (s : State) : Records [.we x] s (setWriteEnable x s) :=
  Records.of_perform (e := .we x) (setWriteEnable_events s x)

theorem records_setOutputEnable (x : Bool) (s : State) : Records [.oe x] s (setOutputEnable x s) :=
  Records.of_perform (e := .oe x) (setOutputEnable_events s x)

theorem records_readDataIn (s : State) : Records [.sample (readDataIn s).1] s (readDataIn s).2 :=
  Records.of_perform (e := .sample (readDataIn s).1) (readDataIn_events s)

theorem records_delay (k : DelayKind) (s : State) : Records [.delay k] s (delay k s) :=
  Records.of_perform (e := .delay k) (delay_events s k)

theorem records_respond (b : Byte) (s : State) : Records [.tx b] s (respond b s) :=
  Records.of_perform (e := .tx b) (respond_events s b)

theorem records_programByte (d : Byte) (a : Addr) (s : State) :
    Records (programTrace d a) s (programByte d a s) :=
  (records_setAddress a s).trans <| (records_setDataDirection .output _).trans <| (records_setDataOut d _).trans <|
    (records_setWriteEnable true _).trans <| (records_delay .wp _).trans <|
    (records_setWriteEnable false _).trans (records_delay .dh _)

theorem records_programFrom (a : Addr) (i : Nat) (ds : List Byte) (s : State) :
    Records (programsTrace a i ds) s (programFrom a i ds s) := by
  induction ds generalizing i s with
  | nil => exact Records.of_core ..
  | cons d ds ih => exact (records_programByte d _ s).trans (ih (i + 1) _)

theorem records_readByte (a : Addr) (s : State) :
    Records (readTrace a (readByte a s).1) s (readByte a s).2 :=
  (records_setDataDirection .input s).trans <| (records_setAddress a _).trans <|
    (records_setOutputEnable true _).trans <| (records_delay .acc _).trans <| (records_readDataIn _).trans <|
    (records_setOutputEnable false _).trans (records_setDataDirection .output _)

theorem records_readOne (start : Addr) (a : Nat) (s : State) : ∃ es, Records es s (readOne start a s) := by
  unfold readOne
  split
  · exact ⟨_, (records_delay .acc s).trans ((records_readDataIn _).trans (records_respond _ _))⟩
  · exact ⟨_, (records_setAddress _ s).trans
      ((records_delay .acc _).trans ((records_readDataIn _).trans (records_respond _ _)))⟩

theorem records_readLoop (start : Addr) (n a : Nat) (s : State) : ∃ es, Records es s (readLoop start n a s) := by
  induction n generalizing a s with
  | zero => exact ⟨[], Records.of_core ..⟩
  | succ n ih =>
    obtain ⟨es, hone⟩ := records_readOne start a s
    obtain ⟨fs, hloop⟩ := ih (a + 1) (readOne start a s)
    exact ⟨es ++ fs, hone.trans hloop⟩

theorem records_readRange (start stop : Addr) (s : State) : ∃ es, Records es s (readRange start stop s) := by
  unfold readRange
  split
  · exact ⟨[], Records.of_core ..⟩
  · have hbegin := (records_setDataDirection .input s).trans
      ((records_setAddress start _).trans (records_setOutputEnable true _))
    obtain ⟨es, hloop⟩ := records_readLoop start (stop.toNat - start.toNat + 1) start.toNat
      (setOutputEnable true (setAddress start (setDataDirection .input s)))
    exact ⟨_, hbegin.trans (hloop.trans
      ((records_setOutputEnable false _).trans (records_setDataDirection .output _)))⟩

theorem records_flush (s : State) : Records
    (programsTrace s.session.addr 0 s.session.buf ++ [.delay .wc, .tx (streamStatus s.session.ovf)]) s (flush s) :=
  (records_programFrom s.session.addr 0 s.session.buf s).trans <| (records_delay .wc _).trans <|
    (records_respond (streamStatus s.session.ovf) _).trans (Records.of_core ..)

theorem records_readDataAction (s : State) : Records
    (readTrace s.session.addr (readByte s.session.addr s).1 ++ [.tx (readByte s.session.addr s).1]) s
    (readDataAction s) :=
  (records_readByte s.session.addr s).trans <| (records_respond _ _).trans (Records.of_core ..)

/-- Replay of the responses' events alone. -/
theorem performAll_tx (bs : List Byte) (s : State) : performAll (bs.map Event.tx) s =
    { s with tx := s.tx ++ bs, events := s.events ++ bs.map .tx } := by
  induction bs generalizing s with
  | nil => simp
  | cons b bs ih => simp [ih, perform, respond]

/-- Every instruction is recorded by its events. -/
theorem exec_records {i : Instr} (h : exec i s = .next t) : ∃ es, Records es s t := by
  rcases exec_cases h with ⟨-, rfl⟩ | ⟨d, -, rfl⟩ | ⟨x, -, rfl⟩ | ⟨b, -, rfl⟩ | ⟨b, -, rfl⟩
  · refine ⟨(statusReply i).map .tx, rfl, ?_⟩
    rw [performAll_tx]
    rfl
  · exact ⟨_, (records_programByte d s.session.addr s).trans <| (records_delay .wc _).trans <|
      (records_respond ackByte _).trans (Records.of_core ..)⟩
  · exact ⟨_, (Records.of_core (s := s) ..).trans (records_flush (setCancelSeen false s))⟩
  · exact ⟨_, (Records.of_core (s := s) ..).trans (records_readDataAction (enter .readData (takeAddrLow b s)))⟩
  · obtain ⟨es, hrange⟩ := records_readRange s.session.rsStart (takeAddrLow b s).session.addr (takeAddrLow b s)
    exact ⟨_, (Records.of_core (s := s) ..).trans (hrange.trans (Records.of_core ..))⟩

theorem runRejected_records (r : Reject) (b : Byte) (s : State) : ∃ es, Records es s (runRejected r b s) := by
  cases r with
  | heldReadData => exact ⟨_, records_readDataAction s⟩
  | orphanAddrHigh => exact ⟨[], Records.of_core ..⟩
  | orphanAddrLow => exact ⟨[], Records.of_core ..⟩
  | orphanData => exact ⟨[], Records.of_core ..⟩

theorem gatePoll_records (s : State) : ∃ es, Records es s (gatePoll s) := by
  unfold gatePoll
  dsimp only
  split
  · exact ⟨[], Records.of_core ..⟩
  · exact ⟨[.delay .blink, .ind (!s.ind)], by simp [blink], rfl⟩

/-- Every step is recorded by its events. -/
theorem step_records (h : step s = .next t) : ∃ es, Records es s t := by
  rcases step_cases s h with ⟨-, rfl⟩ | ⟨-, -, rfl⟩ | ⟨-, b, rest, i, -, -, hexec⟩ | ⟨-, b, rest, r, -, -, rfl⟩
  · exact gatePoll_records s
  · exact ⟨[], Records.of_core ..⟩
  · obtain ⟨es, hes⟩ := exec_records hexec
    exact ⟨_, (Records.of_core (s := s) ..).trans hes⟩
  · obtain ⟨es, hes⟩ := runRejected_records r b { s with rx := rest }
    exact ⟨_, (Records.of_core (s := s) ..).trans hes⟩

theorem txBytes_append (es fs : List Event) : txBytes (es ++ fs) = txBytes es ++ txBytes fs := by
  induction es with
  | nil => rfl
  | cons e es ih => cases e <;> simp [txBytes, ih]

/-- An event emits its own byte if it is a response, and else nothing. -/
theorem perform_tx (s : State) (e : Event) : (perform s e).tx = s.tx ++ txBytes [e] := by
  cases e <;> simp [perform, txBytes]

theorem performAll_txBytes (es : List Event) (s : State) : (performAll es s).tx = s.tx ++ txBytes es := by
  induction es generalizing s with
  | nil => exact (List.append_nil _).symm
  | cons e es ih =>
    have hsplit : txBytes (e :: es) = txBytes [e] ++ txBytes es := txBytes_append [e] es
    rw [performAll_cons, ih, perform_tx, hsplit, List.append_assoc]

theorem Records.tx (h : Records es s t) : t.tx = s.tx ++ txBytes es := by
  rw [← performAll_txBytes es s]
  exact (congrArg State.tx h.replay).symm

/-- Replay with what the step took from Rx and CONN taken first. -/
theorem Records.performAll_taken (h : Records es s t) :
    (performAll es { s with rx := t.rx, conn := t.conn }).withCore t.session t.phase t.rx t.conn = t := by
  have htaken : performAll es { s with rx := t.rx, conn := t.conn } =
      (performAll es s).withCore s.session s.phase t.rx t.conn := performAll_withCore s _ _ _ _ es
  rw [htaken]
  exact h.replay

/-- Settles O36: the step's record, replayed. -/
theorem eventsAreOnlyAppended : Obligations.EventsAreOnlyAppended := by
  intro s t h
  obtain ⟨es, hes⟩ := step_records h
  refine ⟨es, hes.events, hes.tx, ?_⟩
  rintro u rfl
  have hreplay := hes.performAll_taken
  exact ⟨(congrArg State.bus hreplay :), (congrArg State.chip hreplay :), (congrArg State.ind hreplay :),
    (congrArg State.faults hreplay :), (congrArg State.draws hreplay :), (congrArg State.tx hreplay :),
    (congrArg State.events hreplay :)⟩

/-! ### Faults -/

/-- Every fault recorded in fs is recorded in gs. -/
structure FaultSet.Le (fs gs : FaultSet) : Prop where
  busMisuse : fs.busMisuse = true → gs.busMisuse = true
  busContention : fs.busContention = true → gs.busContention = true
  busWeOe : fs.busWeOe = true → gs.busWeOe = true

theorem FaultSet.Le.refl (fs : FaultSet) : fs.Le fs := ⟨id, id, id⟩

theorem FaultSet.Le.trans {fs gs hs : FaultSet} (h : fs.Le gs) (h' : gs.Le hs) : fs.Le hs :=
  ⟨h'.busMisuse ∘ h.busMisuse, h'.busContention ∘ h.busContention, h'.busWeOe ∘ h.busWeOe⟩

/-- What is recorded in the empty set is nothing. -/
theorem FaultSet.Le.eq_none {fs : FaultSet} (h : fs.Le FaultSet.none) : fs = FaultSet.none := by
  obtain ⟨misuse, contention, weOe⟩ := fs
  obtain ⟨h1, h2, h3⟩ := h
  cases misuse <;> cases contention <;> cases weOe <;> simp_all [FaultSet.none]

/-- No event clears a fault: each primitive's record is the old one with its own faults. -/
theorem perform_faults_le (s : State) (e : Event) : s.faults.Le (perform s e).faults := by
  cases e <;> constructor <;> simp_all [perform]

theorem performAll_faults_le (es : List Event) (s : State) : s.faults.Le (performAll es s).faults := by
  induction es generalizing s with
  | nil => exact FaultSet.Le.refl _
  | cons e es ih => exact (perform_faults_le s e).trans (ih (perform s e))

theorem Records.faults_le (h : Records es s t) : s.faults.Le t.faults := by
  have hfaults : (performAll es s).faults = t.faults := (congrArg State.faults h.replay :)
  exact hfaults ▸ performAll_faults_le es s

/-- Settles O37: a step's effect on the record is its events', none of which clears a fault. -/
theorem faultsAreNeverCleared : Obligations.FaultsAreNeverCleared := by
  intro s t h
  obtain ⟨es, hes⟩ := step_records h
  obtain ⟨hmisuse, hcontention, hweOe⟩ := hes.faults_le
  exact ⟨hmisuse, hcontention, hweOe⟩

end Sys2Proof.Machine
end

section
/-! PROOFS. Every step keeps the invariant (10_state.md section 6). -/

namespace Sys2Proof.Machine

variable {s t : State} {S : Session} {cfg : Config} {i : Instr}

/-! ### The consistency of S -/

/-- A consistent S is never in a state without a branch for S.instr. -/
theorem decode_ne_error (h : S.Consistent) (b : Byte) (r : Reject) : decode S.context b ≠ .error r := by
  obtain ⟨hknown, hdata, -, -, hread, -⟩ := h
  intro herr
  rcases (rejectedOnlyWithoutABranch S.context b).mp ⟨r, herr⟩ with hst | ⟨hst, hinstr⟩ | ⟨hst, hinstr⟩
  · exact hread hst
  · have hop := hknown (hst.imp_right .inl)
    exact hinstr (by simpa [Session.context, opWriteByte, opWriteStream, opReadByte, opReadStream] using hop)
  · have hop := hdata hst
    exact hinstr (by simpa [Session.context, opWriteByte, opWriteStream] using hop)

/-- A start that is not pending is the sentinel (R29, R152). -/
theorem pendingAfterStore_eq_false {sentinelAlias : Bool} {a : Addr} (h : pendingAfterStore sentinelAlias a = false) :
    a = rsSentinel := by
  cases sentinelAlias with
  | false => cases h
  | true => simpa [pendingAfterStore] using h

/-- Every instruction in its place keeps S consistent (R45): its place fixes S.st and S.instr, and with them which of
the stream's and the range's fields are in use. -/
theorem after_consistent (h : S.Consistent) (hexpects : S.context.expects i = true) (cfg : Config) :
    (S.after cfg i).Consistent := by
  simp only [Session.Consistent, Session.InstrKnown, Session.DataOfWrite, Session.StreamBits, Session.PendingOfRange,
    Session.SentinelHeld] at h ⊢
  cases i with
  | writeByte r =>
    cases r <;> simp_all [Context.expects, Session.context, Session.after, opWriteByte, opWriteStream, opReadStream]
  | writeStream r =>
    cases r <;> simp_all [Context.expects, Session.context, Session.after, opWriteStream, opReadStream]
  | readByte r =>
    cases r <;> simp_all [Context.expects, Session.context, Session.after, opWriteByte, opWriteStream, opReadByte,
      opReadStream]
  | readStream r =>
    have hsentinel := fun a => pendingAfterStore_eq_false (sentinelAlias := cfg.sentinelAlias) (a := a)
    cases r <;> simp_all [Context.expects, Session.context, Session.after, opWriteByte, opWriteStream, opReadByte,
      opReadStream]
  | handshake => exact h
  | cancel => exact h
  | unknown b => exact h

theorem appended_len (v : Byte) (h : S.len ≤ cfg.pageCap) : (S.appended cfg v).len ≤ cfg.pageCap := by
  unfold Session.appended
  split
  · simp only [Session.len, List.length_append, List.length_singleton] at *
    omega
  · exact h

/-- The buffer never outgrows PAGE_CAP (R47). -/
theorem after_len (h : S.len ≤ cfg.pageCap) (i : Instr) : (S.after cfg i).len ≤ cfg.pageCap := by
  cases i with
  | writeByte r => cases r <;> exact h
  | writeStream r =>
    cases r
    case data b => exact appended_len b h
    case escaped => exact appended_len opCancel h
    case terminator t => exact Nat.zero_le _
    all_goals exact h
  | readByte r => cases r <;> exact h
  | readStream r => cases r <;> exact h
  | handshake => exact h
  | cancel => exact h
  | unknown b => exact h

/-! ### The rest of the machine -/

/-- From the idle posture every instruction ends in the idle posture and raises no fault (R122). -/
theorem exec_keeps_idle (hidle : s.bus.Idle) (h : exec i s = .next t) : t.bus.Idle ∧ t.faults = s.faults := by
  rcases exec_cases h with ⟨-, rfl⟩ | ⟨d, -, rfl⟩ | ⟨x, -, rfl⟩ | ⟨b, -, rfl⟩ | ⟨b, -, rfl⟩
  · exact ⟨hidle, rfl⟩
  · have hop := operationsKeepTheIdlePosture s _ d s.session.addr 0 hidle (.inl rfl)
    simpa [awaitWriteCycle] using hop
  · exact operationsKeepTheIdlePosture (setCancelSeen false s) _ 0 0 0 hidle (.inr (.inr (.inr rfl)))
  · have hop := operationsKeepTheIdlePosture (enter .readData (takeAddrLow b s)) _ 0 (takeAddrLow b s).session.addr 0
      hidle (.inr (.inl rfl))
    simpa [readDataAction] using hop
  · have hop := operationsKeepTheIdlePosture (takeAddrLow b s) _ 0 s.session.rsStart (takeAddrLow b s).session.addr
      hidle (.inr (.inr (.inl rfl)))
    simpa [performRange] using hop

/-- Every instruction waits out the write cycles it begins (R60, R111). -/
theorem exec_keeps_settled (hsettled : s.Settled) (h : exec i s = .next t) : t.Settled := by
  rcases exec_cases h with ⟨-, rfl⟩ | ⟨d, -, rfl⟩ | ⟨x, -, rfl⟩ | ⟨b, -, rfl⟩ | ⟨b, -, rfl⟩
  · exact hsettled
  · exact congrArg Chip.busy (awaitWriteCycle_chip (s := programByte d s.session.addr s))
  · exact congrArg Chip.busy (flush_chip (setCancelSeen false s))
  · rw [State.Settled, readDataAction_chip]
    exact hsettled
  · rw [State.Settled, performRange_chip]
    exact hsettled

/-- What is recorded by events keeps the cells in canonical form. -/
theorem Records.cells_wf {es : List Event} (h : Records es s t) (hwf : s.chip.cells.wf) : t.chip.cells.wf := by
  obtain ⟨-, -, -, -, -, hkeeps⟩ := performAll_keeps s es
  have hchip : (performAll es s).chip = t.chip := (congrArg State.chip h.replay :)
  exact hchip ▸ hkeeps hwf

/-- What is recorded by events keeps Tx what the event list emits. -/
theorem Records.tx_eq {es : List Event} (h : Records es s t) (htx : s.tx = txBytes s.events) :
    t.tx = txBytes t.events := by
  rw [h.tx, h.events, txBytes_append, htx]

/-- Settles O50: the reset values, checked against each part of the invariant. -/
theorem invariantAtReset : Obligations.InvariantAtReset := by
  have hcells : State.reset.chip.cells.wf := ⟨List.Pairwise.nil, by simp [State.reset]⟩
  refine ⟨⟨?_, ⟨rfl, rfl, rfl⟩, Nat.zero_le _, fun _ => rfl, rfl, hcells, rfl⟩, rfl⟩
  exact ⟨by simp [State.reset, Session.reset], by simp [State.reset, Session.reset], fun _ => ⟨rfl, rfl, rfl⟩,
    fun _ => rfl, by simp [State.reset, Session.reset], fun _ => rfl⟩

/-- A poll of the gate moves no line and leaves the chip and the fault record (R184, R185). -/
theorem gatePoll_keeps (s : State) : (gatePoll s).bus = s.bus ∧ (gatePoll s).cfg = s.cfg ∧
    (gatePoll s).faults = s.faults ∧ (gatePoll s).chip = s.chip := by
  unfold gatePoll
  dsimp only
  split <;> simp [blink, delay]

/-- Settles O51: S stays consistent because the decoder accepts a byte only in its place; the lines and the fault
record stay because every operation starts and ends idle; the cells and Tx because every step is its events. -/
theorem stepKeepsTheInvariant : Obligations.StepKeepsTheInvariant := by
  intro s t hinv h
  obtain ⟨es, hes⟩ := step_records h
  obtain ⟨hcons, hidle, hlen, hgate, hfaults, hwf, htx⟩ := hinv
  have hwf' := hes.cells_wf hwf
  have htx' := hes.tx_eq htx
  rcases step_cases s h with ⟨hgated, rfl⟩ | ⟨-, -, rfl⟩ | ⟨hrun, b, rest, i, hrx, hdec, hexec⟩ |
      ⟨-, b, rest, r, -, herr, -⟩
  · obtain ⟨hbus, hcfg, hfs, hchip⟩ := gatePoll_keeps s
    have hsession := gatePoll_session s
    refine ⟨⟨?_, ?_, ?_, fun _ => ?_, ?_, hwf', htx'⟩, fun hsettled => ?_⟩
    · rwa [hsession]
    · rwa [hbus]
    · rwa [hsession, hcfg]
    · rw [hsession]
      exact hgate hgated
    · rwa [hfs]
    · rwa [State.Settled, hchip]
  · exact ⟨⟨hcons, hidle, hlen, hgate, hfaults, hwf, htx⟩, id⟩
  · obtain ⟨-, -, hexpects⟩ := decode_sound hdec
    obtain ⟨hidle', hfs⟩ := exec_keeps_idle (s := { s with rx := rest }) hidle hexec
    have htaken := step_takes_byte hrun hrx h
    have hsession : t.session = s.session.after s.cfg i := exec_session (s := { s with rx := rest }) hexec
    have hsettled := exec_keeps_settled (s := { s with rx := rest }) (h := hexec)
    refine ⟨⟨?_, hidle', ?_, fun hgated => ?_, hfs.trans hfaults, hwf', htx'⟩, hsettled⟩
    · rw [hsession]
      exact after_consistent hcons hexpects s.cfg
    · rw [hsession, htaken.cfg]
      exact after_len hlen i
    · rw [htaken.phase] at hgated
      cases hgated
  · exact absurd herr (decode_ne_error hcons b r)

end Sys2Proof.Machine
end

section
/-! PROOFS. A device reset, between two steps or within one (70_reset_and_hazards.md R190 to R193). -/

namespace Sys2Proof.Machine

variable {s t : State}

/-- The chip and the faults are all that a reset keeps of what the invariant speaks of. -/
theorem deviceReset_inv (held : List Byte) (hfaults : s.faults = FaultSet.none) (hwf : s.chip.cells.wf) :
    (s.deviceReset held).Inv := by
  obtain ⟨⟨hcons, hidle, hlen, -, -, -, -⟩, -⟩ := invariantAtReset
  refine ⟨hcons, hidle, Nat.zero_le _, fun _ => rfl, by rw [deviceReset_faults, hfaults], ?_, rfl⟩
  rw [deviceReset_chip]
  split
  · exact chipLatch_wf s hwf
  · exact hwf

/-- What a cut step has done is a first part of its events. -/
theorem partOfStep_eq (s : State) (k : Nat) : ∃ t es, step s = .next t ∧ Records es s t ∧
    s.partOfStep k = performAll (es.take k) { s with rx := t.rx, conn := t.conn } := by
  obtain ⟨t, h⟩ := step_total s
  obtain ⟨es, hes⟩ := step_records h
  have hevents : stepEvents s t = es := by rw [stepEvents, hes.events, List.drop_left]
  exact ⟨t, es, h, hes, by rw [partOfStep_next s h, hevents]⟩

/-- A cut step records no more than the whole step's faults. -/
theorem partOfStep_faults_le (h : step s = .next t) (k : Nat) : (s.partOfStep k).faults.Le t.faults := by
  obtain ⟨t', es, h', hes, hpart⟩ := partOfStep_eq s k
  obtain rfl : t' = t := by rw [h] at h'; cases h'; rfl
  have hreplay : (performAll es { s with rx := t'.rx, conn := t'.conn }).faults = t'.faults :=
    (congrArg State.faults hes.performAll_taken :)
  rw [← hreplay, hpart]
  conv => arg 2; rw [← List.take_append_drop k es, performAll_append]
  exact performAll_faults_le _ _

theorem partOfStep_keeps (s : State) (k : Nat) : (s.partOfStep k).cfg = s.cfg ∧
    (s.partOfStep k).chip.env = s.chip.env ∧ (s.chip.cells.wf → (s.partOfStep k).chip.cells.wf) := by
  obtain ⟨t, es, -, -, hpart⟩ := partOfStep_eq s k
  obtain ⟨hcfg, -, -, -, henv, hwf⟩ := performAll_keeps { s with rx := t.rx, conn := t.conn } (es.take k)
  rw [hpart]
  exact ⟨hcfg, henv, hwf⟩

/-- From a state that meets the invariant a cut step has recorded no fault. -/
theorem partOfStep_faults (hinv : s.Inv) (k : Nat) : (s.partOfStep k).faults = FaultSet.none := by
  obtain ⟨t, h⟩ := step_total s
  obtain ⟨⟨-, -, -, -, hfaults, -, -⟩, -⟩ := stepKeepsTheInvariant s t hinv h
  have hle := partOfStep_faults_le h k
  rw [hfaults] at hle
  exact hle.eq_none

theorem deviceReset_env (s : State) (held : List Byte) : (s.deviceReset held).chip.env = s.chip.env := by
  rw [deviceReset_chip]
  split
  · exact chipLatch_env s
  · rfl

/-- Settles O60: a reset between steps writes the core field by field; one within a step is one between steps after a
first part of the step's events. -/
theorem deviceResetRestoresTheCore : Obligations.DeviceResetRestoresTheCore := by
  refine ⟨fun s r k held hr => ?core, fun s held =>
    ⟨deviceReset_faults s held, deviceReset_conn s held, ?chip⟩, ?cut⟩
  case core =>
    rcases hr with rfl | rfl
    · refine ⟨rfl, rfl, rfl, rfl, rfl, rfl, deviceReset_cfg s held, deviceReset_env s held, fun hinv => ?_⟩
      obtain ⟨-, -, -, -, hfaults, hwf, -⟩ := hinv
      exact deviceReset_inv held hfaults hwf
    · obtain ⟨hcfg, henv, hwf⟩ := partOfStep_keeps s k
      refine ⟨rfl, rfl, rfl, rfl, rfl, rfl, (deviceReset_cfg _ held).trans hcfg, (deviceReset_env _ held).trans henv,
        fun hinv => ?_⟩
      have hfaults := partOfStep_faults hinv k
      obtain ⟨-, -, -, -, -, hcells, -⟩ := hinv
      exact deviceReset_inv held hfaults (hwf hcells)
  case chip =>
    rw [deviceReset_chip, chipLatch_chip]
    cases s.bus.we <;> simp
  case cut =>
    rintro s t _ k held h rfl
    have hpart := partOfStep_next s h k
    refine ⟨by rw [State.resetDuring, hpart], by rw [State.resetDuring, hpart, deviceReset_faults],
      by rw [State.resetDuring, hpart, deviceReset_draws], fun hk => ?_⟩
    obtain ⟨es, hevents, -, hreplay⟩ := eventsAreOnlyAppended s t h
    have hes : stepEvents s t = es := by rw [stepEvents, hevents, List.drop_left]
    obtain ⟨hbus, hchip, -, hfaults, -⟩ := hreplay _ rfl
    rw [List.take_of_length_le hk, hes]
    exact ⟨hchip, hfaults, hbus⟩

end Sys2Proof.Machine
end

section
/-! PROOFS. What the chip holds never changes how a byte is interpreted (20_memory.md R65). -/

open Sys2Proof.Claims

namespace Sys2Proof.Machine

variable {s t : State} {i : Instr}

/-- How many bytes a range from start to stop answers (R118, R119). -/
def rangeCount (start stop : Addr) : Nat := if stop < start then 0 else stop.toNat - start.toNat + 1

/-- How many bytes an instruction answers: a matter of S alone. -/
def Session.replies (S : Session) : Instr → Nat
  | .writeByte (.data _) => 1
  | .writeStream (.terminator _) => 1
  | .readByte (.addrLo _) => 1
  | .readStream (.endLo b) => rangeCount S.rsStart (addrWithLow S.addr b)
  | i => (statusReply i).length

theorem replies_of_not_operates (hi : operates i = false) (S : Session) : S.replies i = (statusReply i).length := by
  cases i with
  | writeByte r => cases r <;> simp_all [operates, Session.replies, statusReply]
  | writeStream r => cases r <;> simp_all [operates, Session.replies, statusReply]
  | readByte r => cases r <;> simp_all [operates, Session.replies, statusReply]
  | readStream r => cases r <;> simp_all [operates, Session.replies, statusReply]
  | handshake => rfl
  | cancel => rfl
  | unknown b => rfl

theorem readOne_tx_length (start : Addr) (a : Nat) (s : State) :
    (readOne start a s).tx.length = s.tx.length + 1 := by
  unfold readOne awaitOutputSettle
  split <;> simp

theorem readLoop_tx_length (start : Addr) (n a : Nat) (s : State) :
    (readLoop start n a s).tx.length = s.tx.length + n := by
  induction n generalizing a s with
  | zero => rfl
  | succ n ih =>
    rw [readLoop, ih, readOne_tx_length]
    omega

theorem readRange_tx_length (start stop : Addr) (s : State) :
    (readRange start stop s).tx.length = s.tx.length + rangeCount start stop := by
  unfold readRange rangeCount
  split
  · rfl
  · simp [endRead, readLoop_tx_length]

theorem exec_tx_length (h : exec i s = .next t) : t.tx.length = s.tx.length + s.session.replies i := by
  rcases exec_cases h with ⟨hi, rfl⟩ | ⟨d, rfl, rfl⟩ | ⟨x, rfl, rfl⟩ | ⟨b, rfl, rfl⟩ | ⟨b, rfl, rfl⟩
  · simp [replies_of_not_operates hi]
  · simp [Session.replies, awaitWriteCycle]
  · simp [Session.replies, flush, awaitWriteCycle]
  · simp [Session.replies, readDataAction]
  · simp [Session.replies, performRange, readRange_tx_length]

/-- A rejected byte is answered at a held READ_DATA alone. -/
def rejectedReplies : Reject → Nat
  | .heldReadData => 1
  | .orphanAddrHigh => 0
  | .orphanAddrLow => 0
  | .orphanData => 0

theorem runRejected_tx_length (r : Reject) (b : Byte) (s : State) :
    (runRejected r b s).tx.length = s.tx.length + rejectedReplies r := by
  cases r <;> simp [runRejected, rejectedReplies, readDataAction, recover]

/-- How many bytes a step with a byte answers. -/
def Session.repliesToByte (S : Session) (b : Byte) : Nat :=
  match decode S.context b with
  | .ok i => S.replies i
  | .error r => rejectedReplies r

theorem step_tx_length (hrun : s.phase = .run) {b : Byte} {rest : List Byte} (hrx : s.rx = b :: rest)
    (h : step s = .next t) : t.tx.length = s.tx.length + s.session.repliesToByte b := by
  cases hd : decode s.context b with
  | ok i =>
    rw [step_of_decode_ok hrun hrx hd] at h
    rw [exec_tx_length h, Session.repliesToByte, ← state_context_eq, hd]
  | error r =>
    rw [step_of_decode_error hrun hrx hd] at h
    cases h
    rw [runRejected_tx_length, Session.repliesToByte, ← state_context_eq, hd]

/-- Polls from states alike but for the chip end alike. -/
theorem gatePoll_alike (h : AlikeButForTheChip s t) : AlikeButForTheChip (gatePoll s) (gatePoll t) := by
  obtain ⟨hcfg, hphase, hsession, hind, hrx, hconn, htx⟩ := h
  have hlevel : connLevel s = connLevel t := by rw [connLevel, connLevel, hconn]
  unfold gatePoll
  rw [hlevel]
  split
  · exact ⟨hcfg, rfl, hsession, hind, hrx, congrArg List.tail hconn, htx⟩
  · exact ⟨hcfg, hphase, hsession, congrArg not hind, hrx, congrArg List.tail hconn, htx⟩

/-- One step from states alike but for the chip ends in such states. -/
theorem step_alike {s' t' : State} (h : AlikeButForTheChip s t) (hs : step s = .next s') (ht : step t = .next t') :
    AlikeButForTheChip s' t' := by
  have halike := h
  obtain ⟨hcfg, hphase, hsession, hind, hrx, hconn, htx⟩ := h
  cases hp : t.phase with
  | gated =>
    rw [step_gated s (hphase.trans hp)] at hs
    rw [step_gated t hp] at ht
    cases hs
    cases ht
    exact gatePoll_alike halike
  | run =>
    cases hr : t.rx with
    | nil =>
      rw [step_of_rx_nil (hphase.trans hp) (hrx.trans hr)] at hs
      rw [step_of_rx_nil hp hr] at ht
      cases hs
      cases ht
      exact halike
    | cons b rest =>
      have hs' := step_takes_byte (hphase.trans hp) (hrx.trans hr) hs
      have ht' := step_takes_byte hp hr ht
      have hsl := step_tx_length (hphase.trans hp) (hrx.trans hr) hs
      have htl := step_tx_length hp hr ht
      refine ⟨?_, hs'.phase.trans ht'.phase.symm, ?_, ?_, hs'.rx.trans ht'.rx.symm, ?_, ?_⟩
      · rw [hs'.cfg, ht'.cfg, hcfg]
      · rw [hs'.session, ht'.session, hsession, hcfg]
      · rw [hs'.ind, ht'.ind, hind]
      · rw [hs'.conn, ht'.conn, hconn]
      · rw [hsl, htl, htx, hsession]

/-- Settles O54: S after a step, and how many bytes it answers, are functions of S, the byte and the parameters; so
one step keeps two states alike, and induction carries it along a run. -/
theorem chipNeverSteersTheProtocol : Obligations.ChipNeverSteersTheProtocol := by
  intro k
  induction k with
  | zero => exact fun s t h => ⟨s, t, rfl, rfl, h⟩
  | succ k ih =>
    intro s t h
    obtain ⟨s1, hs⟩ := step_total s
    obtain ⟨t1, ht⟩ := step_total t
    rw [runSteps_succ s k hs, runSteps_succ t k ht]
    exact ih s1 t1 (step_alike h hs ht)

end Sys2Proof.Machine
end

section
/-! PROOFS. Where a frame ends (30_encoding.md R90), and that every state is left (10_state.md R24). -/

namespace Sys2Proof.Machine

variable {s : State} {S : Session} {cfg : Config} {i : Instr}

/-- A well-formed instruction's byte in its place moves S as the instruction does. -/
theorem afterByte_encodeByte (hwf : i.wf = true) (hexpects : S.context.expects i = true) (cfg : Config) :
    S.afterByte cfg (encodeByte i) = S.after cfg i :=
  afterByte_of_decode_ok (decode_encodeByte hwf hexpects) cfg

/-- S waits for just these instructions: each stands in its place, and S is back at WAIT_INSTRUCTION after the last
and not before. -/
def Session.Awaits (cfg : Config) : List Instr → Session → Prop
  | [], S => S.st = .waitInstruction
  | i :: is, S => S.st ≠ .waitInstruction ∧ i.wf = true ∧ S.context.expects i = true ∧ (S.after cfg i).Awaits cfg is

/-- The step of an instruction's byte in its place. -/
theorem step_in_place (hrun : s.phase = .run) (hwf : i.wf = true) (hexpects : s.context.expects i = true)
    {rest : List Byte} (hrx : s.rx = encodeByte i :: rest) :
    ∃ t, step s = .next t ∧ t.session = s.session.after s.cfg i ∧ t.rx = rest ∧ t.phase = .run ∧ t.cfg = s.cfg := by
  obtain ⟨t, h⟩ := step_total s
  have htaken := step_takes_byte hrun hrx h
  exact ⟨t, h, htaken.session.trans (afterByte_encodeByte hwf hexpects _), htaken.rx, htaken.phase, htaken.cfg⟩

/-- The machine takes the awaited bytes and is then, and no sooner, at WAIT_INSTRUCTION. -/
theorem runSteps_awaits {is : List Instr} {rest : List Byte} (h : s.session.Awaits s.cfg is) (hrun : s.phase = .run)
    (hrx : s.rx = is.map encodeByte ++ rest) :
    (∃ t, runSteps is.length s = .next t ∧ t.session.st = .waitInstruction ∧ t.rx = rest) ∧
    ∀ k, k < is.length → ∃ t, runSteps k s = .next t ∧ t.session.st ≠ .waitInstruction := by
  induction is generalizing s with
  | nil => exact ⟨⟨s, rfl, h, hrx⟩, fun k hk => absurd hk (Nat.not_lt_zero k)⟩
  | cons i is ih =>
    obtain ⟨hst, hwf, hexpects, hawaits⟩ := h
    obtain ⟨u, hstep, hsession, hrx', hrun', hcfg⟩ := step_in_place hrun hwf hexpects hrx
    rw [← hsession, ← hcfg] at hawaits
    obtain ⟨hend, hbefore⟩ := ih hawaits hrun' hrx'
    refine ⟨by rwa [List.length_cons, runSteps_succ s _ hstep], fun k hk => ?_⟩
    cases k with
    | zero => exact ⟨s, rfl, hst⟩
    | succ k =>
      rw [runSteps_succ s k hstep]
      exact hbefore k (by simpa using hk)

/-! ### What each frame leaves S waiting for -/

/-- The two address transitions assemble an address from its bytes (R84, R128, R129). -/
@[simp] theorem addrWithLow_of_bytes (a : Addr) :
    addrWithLow (addrFromHigh (addrHighByte a)) (addrLowByte a) = a := by
  rw [addrWithLow_addrFromHigh, assembleAddr_bytes]

/-- A stream's data phase waits for its data, the mark and the disambiguator. -/
theorem awaits_stream {t : Byte} (ht : t ≠ opCancel) (cfg : Config) (ds : List Byte) {S : Session}
    (hst : S.st = .waitData) (hinstr : S.instr = opWriteStream) (hseen : S.cancelSeen = false) :
    S.Awaits cfg (ds.flatMap streamDataInstrs ++ [.writeStream .mark, .writeStream (.terminator t)]) := by
  induction ds generalizing S with
  | nil => simp [Session.Awaits, Session.after, Session.context, Context.expects, Instr.wf, hst, hinstr, hseen, ht]
  | cons d ds ih =>
    by_cases hd : d = opCancel
    · simp [Session.Awaits, Session.after, Session.context, Context.expects, Instr.wf, streamDataInstrs, hst, hinstr,
        hseen, hd, ih]
    · simp [Session.Awaits, Session.after, Session.context, Context.expects, Instr.wf, streamDataInstrs, hst, hinstr,
        hseen, hd, ih]

/-- A retained start is pending (R152). -/
theorem pendingAfterStore_of_rangeWf {cfg : Config} {skipped : Nat} {start : Addr}
    (h : RangeWf cfg.sentinelAlias skipped start) : pendingAfterStore cfg.sentinelAlias start = true := by
  cases halias : cfg.sentinelAlias with
  | true =>
    rw [halias] at h
    have hne : start ≠ rsSentinel := h
    simp [pendingAfterStore, hne]
  | false => rfl

/-- Only under SENTINEL_ALIAS is a start skipped (R80, R152). -/
theorem sentinelAlias_of_skipped {sentinelAlias : Bool} {skipped : Nat} {start : Addr}
    (h : RangeWf sentinelAlias (skipped + 1) start) : sentinelAlias = true := by
  cases sentinelAlias with
  | true => rfl
  | false => exact absurd h (Nat.succ_ne_zero skipped)

/-- A start is skipped whatever was skipped before it. -/
theorem RangeWf.of_succ {sentinelAlias : Bool} {skipped : Nat} {start : Addr}
    (h : RangeWf sentinelAlias (skipped + 1) start) : RangeWf sentinelAlias skipped start := by
  obtain rfl := sentinelAlias_of_skipped h
  exact h

/-- A skipped start's instructions (R80). -/
def skippedInstrs : List Instr :=
  [.readStream (.startHi (addrHighByte rsSentinel)), .readStream (.startLo (addrLowByte rsSentinel))]

/-- The address bytes of a range. -/
def rangeInstrs (start stop : Addr) : List Instr :=
  [.readStream (.startHi (addrHighByte start)), .readStream (.startLo (addrLowByte start)),
    .readStream (.endHi (addrHighByte stop)), .readStream (.endLo (addrLowByte stop))]

/-- A READ_STREAM waits for its skipped starts, its start and its end. -/
theorem awaits_range (stop : Addr) {start : Addr} (skipped : Nat) {S : Session}
    (hwf : RangeWf cfg.sentinelAlias skipped start)
    (hst : S.st = .waitAddrHigh) (hinstr : S.instr = opReadStream) (hpend : S.rsPending = false) :
    S.Awaits cfg ((List.replicate skipped skippedInstrs).flatten ++ rangeInstrs start stop) := by
  induction skipped generalizing S with
  | zero =>
    have hstart := pendingAfterStore_of_rangeWf hwf
    simp [Session.Awaits, Session.after, Session.context, Context.expects, Instr.wf, rangeInstrs, hst, hinstr, hpend,
      hstart]
  | succ skipped ih =>
    have hskip : pendingAfterStore cfg.sentinelAlias rsSentinel = false := by
      rw [sentinelAlias_of_skipped hwf]
      rfl
    have hrest := ih (S := { S with addr := rsSentinel, rsStart := rsSentinel }) (RangeWf.of_succ hwf) hst hinstr hpend
    simpa [Session.Awaits, Session.after, Session.context, Context.expects, Instr.wf, skippedInstrs,
      List.replicate_succ, hst, hinstr, hpend, hskip] using hrest

/-- The first instruction of a frame stands in its place at WAIT_INSTRUCTION, and S then waits for the others. -/
theorem awaits_frame {f : Frame} (hcons : S.Consistent) (hst : S.st = .waitInstruction)
    (hwf : f.wf cfg.sentinelAlias = true) :
    ∃ i is, f.instrs = i :: is ∧ i.wf = true ∧ S.context.expects i = true ∧ (S.after cfg i).Awaits cfg is := by
  obtain ⟨-, -, hbits, hpend, -, -⟩ := hcons
  obtain ⟨-, hseen, -⟩ := hbits (by simp [hst])
  have hpend := hpend (by simp [hst])
  have hplace : S.context.st = .waitInstruction := hst
  cases f with
  | writeByte a d =>
    refine ⟨_, _, rfl, rfl, by simp [Context.expects, hplace], ?_⟩
    simp [Session.Awaits, Session.after, Session.context, Context.expects, Instr.wf]
  | writeStream a ds t =>
    have ht : t ≠ opCancel := by simpa [Frame.wf] using hwf
    refine ⟨_, _, rfl, rfl, by simp [Context.expects, hplace], ?_⟩
    have hrest := awaits_stream ht cfg ds (S := { S with instr := opWriteStream, addr := a, st := .waitData }) rfl rfl
      hseen
    simpa [Session.Awaits, Session.after, Session.context, Context.expects, Instr.wf] using hrest
  | readByte a =>
    refine ⟨_, _, rfl, rfl, by simp [Context.expects, hplace], ?_⟩
    simp [Session.Awaits, Session.after, Session.context, Context.expects, Instr.wf]
  | readStream skipped start stop =>
    exact ⟨_, _, rfl, rfl, by simp [Context.expects, hplace],
      awaits_range stop skipped ((wf_readStream_iff _ _ _ _).mp hwf) rfl rfl hpend⟩
  | handshake => exact ⟨_, _, rfl, rfl, by simp [Context.expects, hplace], hst⟩
  | cancel => exact ⟨_, _, rfl, rfl, by simp [Context.expects, hplace], hst⟩
  | unknown b => exact ⟨_, _, rfl, hwf, by simp [Context.expects, hplace], hst⟩

/-- Settles O7: after the frame's first byte S waits for just the others. -/
theorem frameEndsWhereTheMachineReturns : Obligations.FrameEndsWhereTheMachineReturns := by
  intro s f rest hlaunch hst hwf hrx
  obtain ⟨hrun, hcons, -⟩ := hlaunch
  obtain ⟨i, is, hinstrs, hiwf, hexpects, hawaits⟩ := awaits_frame hcons hst hwf
  have hbytes : f.bytes = encodeByte i :: is.map encodeByte := by rw [Frame.bytes, hinstrs, List.map_cons]
  have hlen : f.bytes.length = is.length + 1 := by rw [hbytes, List.length_cons, List.length_map]
  have hrx' : s.rx = encodeByte i :: (is.map encodeByte ++ rest) := by rw [hrx, hbytes, List.cons_append]
  obtain ⟨u, hstep, hsession, hurx, hurun, hcfg⟩ := step_in_place hrun hiwf hexpects hrx'
  rw [← hsession, ← hcfg] at hawaits
  obtain ⟨hend, hbefore⟩ := runSteps_awaits hawaits hurun hurx
  rw [hlen]
  have hdecode := hrx ▸ frameEncodeThenDecode s.cfg.sentinelAlias f rest hwf
  refine ⟨hdecode, by rwa [runSteps_succ s _ hstep], fun k hpos hk => ?_⟩
  cases k with
  | zero => exact absurd hpos (lt_irrefl 0)
  | succ k =>
    rw [runSteps_succ s k hstep]
    exact hbefore k (by omega)

/-! ### No state is terminal -/

/-- S is back at WAIT_INSTRUCTION within n bytes of its choice. -/
def Session.Within (cfg : Config) (n : Nat) (S : Session) : Prop := ∃ is, is.length ≤ n ∧ S.Awaits cfg is

/-- One byte in its place, and then the rest. -/
theorem Session.Within.succ {n : Nat} (i : Instr) (hst : S.st ≠ .waitInstruction) (hwf : i.wf = true)
    (hexpects : S.context.expects i = true) (h : (S.after cfg i).Within cfg n) : S.Within cfg (n + 1) := by
  obtain ⟨is, hlen, hawaits⟩ := h
  exact ⟨i :: is, by simpa using hlen, hst, hwf, hexpects, hawaits⟩

theorem Session.Within.mono {m n : Nat} (hmn : m ≤ n) (h : S.Within cfg m) : S.Within cfg n := by
  obtain ⟨is, hlen, hawaits⟩ := h
  exact ⟨is, hlen.trans hmn, hawaits⟩

/-- A write's data phase: one data byte, or a mark that may be missing and a disambiguator. -/
theorem within_of_waitData (hcons : S.Consistent) (hst : S.st = .waitData) : S.Within cfg 2 := by
  obtain ⟨-, hdata, -⟩ := hcons
  rcases hdata hst with hinstr | hinstr
  · refine ⟨[.writeByte (.data 0x00#8)], by simp, ?_⟩
    simp [Session.Awaits, Session.after, Session.context, Context.expects, Instr.wf, hst, hinstr]
  · cases hseen : S.cancelSeen with
    | true =>
      refine ⟨[.writeStream (.terminator 0x00#8)], by simp, ?_⟩
      simp [Session.Awaits, Session.after, Session.context, Context.expects, Instr.wf, hst, hinstr, hseen, opCancel]
    | false => exact ⟨_, le_rfl, awaits_stream (t := 0x00#8) (by decide) cfg [] hst hinstr hseen⟩

/-- The low byte that follows sets the address's low byte, so no start with it 0 is the sentinel. -/
theorem addrLowByte_addrWithLow (a : Addr) (b : Byte) : addrLowByte (addrWithLow a b) = b := by
  apply BitVec.eq_of_getLsbD_eq
  intro i hi
  have happ := BitVec.getLsbD_append (x := a.extractLsb' 8 8) (y := b) (i := i)
  rw [if_pos hi] at happ
  have hlow : (addrLowByte (addrWithLow a b)).getLsbD i = (addrWithLow a b).getLsbD i := by simp [addrLowByte, hi]
  exact hlow.trans happ

theorem pendingAfterStore_low_zero (sentinelAlias : Bool) (a : Addr) :
    pendingAfterStore sentinelAlias (addrWithLow a 0x00#8) = true := by
  by_contra h
  have hsentinel := congrArg addrLowByte (pendingAfterStore_eq_false (by simpa using h))
  rw [addrLowByte_addrWithLow] at hsentinel
  exact absurd hsentinel (by decide)

/-- At a low address byte: a write's data phase, a READ_BYTE's end, a range's end, or a range's start and its end. -/
theorem within_of_waitAddrLow (hcons : S.Consistent) (hst : S.st = .waitAddrLow) : S.Within cfg 3 := by
  have hplace : S.context.st = .waitAddrLow := hst
  have hnext := fun i hexpects => after_consistent (i := i) hcons hexpects cfg
  obtain ⟨hknown, -⟩ := hcons
  rcases hknown (.inr (.inl hst)) with hinstr | hinstr | hinstr | hinstr
  · have hexpects : S.context.expects (.writeByte (.addrLo 0x00#8)) = true := by
      simp [Context.expects, Session.context, hst, hinstr]
    exact .succ _ (by simp [hst]) rfl hexpects (within_of_waitData (hnext _ hexpects) rfl)
  · have hexpects : S.context.expects (.writeStream (.addrLo 0x00#8)) = true := by
      simp [Context.expects, Session.context, hst, hinstr]
    exact .succ _ (by simp [hst]) rfl hexpects (within_of_waitData (hnext _ hexpects) rfl)
  · refine ⟨[.readByte (.addrLo 0x00#8)], by simp, ?_⟩
    simp [Session.Awaits, Session.after, Session.context, Context.expects, Instr.wf, hst, hinstr]
  · cases hpend : S.rsPending with
    | true =>
      refine ⟨[.readStream (.endLo 0x00#8)], by simp, ?_⟩
      simp [Session.Awaits, Session.after, Session.context, Context.expects, Instr.wf, hst, hinstr, hpend]
    | false =>
      refine ⟨[.readStream (.startLo 0x00#8), .readStream (.endHi 0x00#8), .readStream (.endLo 0x00#8)], by simp, ?_⟩
      simp [Session.Awaits, Session.after, Session.context, Context.expects, Instr.wf, hst, hinstr, hpend,
        pendingAfterStore_low_zero]

/-- At a high address byte: that byte, whatever the command, and then the low one. -/
theorem within_of_waitAddrHigh (hcons : S.Consistent) (hst : S.st = .waitAddrHigh) : S.Within cfg 4 := by
  have hnext : ∀ i, i.wf = true → S.context.expects i = true → (S.after cfg i).st = .waitAddrLow →
      S.Within cfg 4 := fun i hwf hexpects hlow =>
    .succ i (by simp [hst]) hwf hexpects (within_of_waitAddrLow (after_consistent hcons hexpects cfg) hlow)
  obtain ⟨hknown, -⟩ := hcons
  rcases hknown (.inl hst) with hinstr | hinstr | hinstr | hinstr
  · exact hnext (.writeByte (.addrHi 0x00#8)) rfl (by simp [Context.expects, Session.context, hst, hinstr]) rfl
  · exact hnext (.writeStream (.addrHi 0x00#8)) rfl (by simp [Context.expects, Session.context, hst, hinstr]) rfl
  · exact hnext (.readByte (.addrHi 0x00#8)) rfl (by simp [Context.expects, Session.context, hst, hinstr]) rfl
  · cases hpend : S.rsPending with
    | true =>
      exact hnext (.readStream (.endHi 0x00#8)) rfl
        (by simp [Context.expects, Session.context, hst, hinstr, hpend]) rfl
    | false =>
      exact hnext (.readStream (.startHi 0x00#8)) rfl
        (by simp [Context.expects, Session.context, hst, hinstr, hpend]) rfl

theorem within_of_consistent (hcons : S.Consistent) (cfg : Config) : S.Within cfg 4 := by
  cases hst : S.st with
  | waitInstruction => exact ⟨[], by simp, hst⟩
  | waitAddrHigh => exact within_of_waitAddrHigh hcons hst
  | waitAddrLow => exact (within_of_waitAddrLow hcons hst).mono (by omega)
  | waitData => exact (within_of_waitData hcons hst).mono (by omega)
  | readData =>
    obtain ⟨-, -, -, -, hread, -⟩ := hcons
    exact absurd hst hread

/-- S after a list of bytes. -/
def Session.afterBytes (S : Session) (cfg : Config) (bs : List Byte) : Session :=
  bs.foldl (fun S b => S.afterByte cfg b) S

/-- A run from a launch state takes the bytes in Rx one by one and ends in a launch state. -/
theorem runSteps_launch (xs ys : List Byte) {s : State} (hlaunch : s.Launch) (hrx : s.rx = xs ++ ys) :
    ∃ t, runSteps xs.length s = .next t ∧ t.Launch ∧ t.rx = ys ∧ t.cfg = s.cfg ∧
      t.session = s.session.afterBytes s.cfg xs := by
  induction xs generalizing s with
  | nil => exact ⟨s, rfl, hlaunch, hrx, rfl, rfl⟩
  | cons x xs ih =>
    obtain ⟨hrun, hinv⟩ := hlaunch
    obtain ⟨u, hstep⟩ := step_total s
    have htaken := step_takes_byte hrun hrx hstep
    obtain ⟨hinv', -⟩ := stepKeepsTheInvariant s u hinv hstep
    obtain ⟨t, hsteps, hlaunch', hrx', hcfg, hsession⟩ := ih ⟨htaken.phase, hinv'⟩ htaken.rx
    refine ⟨t, by rwa [List.length_cons, runSteps_succ s _ hstep], hlaunch', hrx', hcfg.trans htaken.cfg, ?_⟩
    rw [hsession, htaken.cfg, htaken.session]
    rfl

/-- Settles O29: the bytes in Rx lead to a consistent S, which no byte delivered behind them changes, and that S is
four bytes from WAIT_INSTRUCTION. -/
theorem fourBytesLeadBack : Obligations.FourBytesLeadBack := by
  intro s hlaunch
  obtain ⟨t, -, ⟨-, hcons, -⟩, -, hcfg, hsession⟩ := runSteps_launch s.rx [] hlaunch (List.append_nil _).symm
  obtain ⟨is, hlen, hawaits⟩ := within_of_consistent hcons t.cfg
  refine ⟨is.map encodeByte, by simpa using hlen, ?_⟩
  obtain ⟨u, hsteps, ⟨hrun, -⟩, hrx, hucfg, husession⟩ :=
    runSteps_launch (s := s.deliver (is.map encodeByte)) s.rx (is.map encodeByte) hlaunch rfl
  have hsame : u.session = t.session := husession.trans hsession.symm
  have hawaits' : u.session.Awaits u.cfg is := by
    rw [hsame, hucfg]
    exact hcfg ▸ hawaits
  obtain ⟨⟨v, hv, hst, hvrx⟩, -⟩ := runSteps_awaits hawaits' hrun (hrx.trans (List.append_nil _).symm)
  exact ⟨v, by rw [List.length_map, runSteps_add _ _ _ hsteps, hv], hvrx, hst⟩

end Sys2Proof.Machine
end

section
/-! PROOFS. Whole frames, byte by byte (42_protocol.md section 2): the bytes that only collect, and then the one that
operates. -/

open Sys2Proof.Claims

namespace Sys2Proof.Machine

variable {s t : State} {S S' S'' : Session} {cfg : Config} {i : Instr}

/-! ### The bytes that only collect a frame -/

/-- The instructions stand in their places one after the other from S on, none of them operates or answers, and they
lead S to S'. -/
def Collects (cfg : Config) : List Instr → Session → Session → Prop
  | [], S, S' => S = S'
  | i :: is, S, S' => (operates i = false ∧ statusReply i = [] ∧ i.wf = true ∧ S.context.expects i = true) ∧
      Collects cfg is (S.after cfg i) S'

theorem Collects.append {is js : List Instr} (h : Collects cfg is S S') (h' : Collects cfg js S' S'') :
    Collects cfg (is ++ js) S S'' := by
  induction is generalizing S with
  | nil =>
    obtain rfl : S = S' := h
    exact h'
  | cons i is ih =>
    obtain ⟨hi, his⟩ := h
    exact ⟨hi, ih his⟩

/-- The step of an instruction's byte in its place is the instruction at the state without the byte. -/
theorem step_eq_exec (hrun : s.phase = .run) (hwf : i.wf = true) (hexpects : s.context.expects i = true)
    {rest : List Byte} (hrx : s.rx = encodeByte i :: rest) : step s = exec i { s with rx := rest } :=
  step_of_decode_ok hrun hrx (decode_encodeByte hwf hexpects)

/-- Collecting bytes move S and leave all else. -/
theorem runSteps_collects {is : List Instr} {rest : List Byte} (h : Collects s.cfg is s.session S')
    (hrun : s.phase = .run) (hrx : s.rx = is.map encodeByte ++ rest) :
    runSteps is.length s = .next { s with session := S', rx := rest } := by
  induction is generalizing s with
  | nil =>
    obtain rfl : s.session = S' := h
    obtain rfl : s.rx = rest := hrx
    rfl
  | cons i is ih =>
    obtain ⟨⟨hop, hreply, hwf, hexpects⟩, his⟩ := h
    have hstep := step_eq_exec hrun hwf hexpects hrx
    rw [exec_of_not_operates hop, hreply] at hstep
    simp only [List.append_nil, List.map_nil] at hstep
    rw [List.length_cons, runSteps_succ s _ hstep]
    exact ih (s := { s with rx := is.map encodeByte ++ rest, session := s.session.after s.cfg i }) his hrun rfl

/-- A frame's steps: its collecting bytes and then its last one. -/
theorem runSteps_frame {is : List Instr} {rest : List Byte} (h : Collects s.cfg is s.session S')
    (hrun : s.phase = .run) (hwf : i.wf = true) (hexpects : S'.context.expects i = true)
    (hrx : s.rx = (is ++ [i]).map encodeByte ++ rest) (ht : exec i { s with session := S', rx := rest } = .next t) :
    runSteps (is ++ [i]).length s = .next t := by
  have hcollect := runSteps_collects (rest := encodeByte i :: rest) h hrun (by simpa using hrx)
  have hstep := step_eq_exec (s := { s with session := S', rx := encodeByte i :: rest }) (i := i) (rest := rest)
    hrun hwf hexpects rfl
  rw [ht] at hstep
  rw [List.length_append, List.length_singleton, runSteps_add s _ 1 hcollect, runSteps_succ _ 0 hstep]
  rfl

/-! ### WRITE_BYTE and READ_BYTE -/

/-- Settles O24: opcode and address are collected, the data byte is programmed. -/
theorem writeByteWholeFrame : Obligations.WriteByteWholeFrame := by
  intro s addr d rest hlaunch hst hrx
  obtain ⟨hrun, -, hidle, -⟩ := hlaunch
  have hcollects : Collects s.cfg
      [.writeByte .opcode, .writeByte (.addrHi (addrHighByte addr)), .writeByte (.addrLo (addrLowByte addr))]
      s.session { s.session with instr := opWriteByte, addr := addr, st := .waitData } := by
    simp [Collects, Session.after, Session.context, Context.expects, Instr.wf, operates, statusReply, hst]
  have hdata := writeByteDataResult
    { s with session := { s.session with instr := opWriteByte, addr := addr, st := .waitData }, rx := rest } d hidle
  refine (runSteps_frame hcollects hrun rfl rfl hrx hdata).trans ?_
  simp [busAfterProgram, programTrace, opWriteByte, hst]

/-- Settles O26: opcode and high address byte are collected, the low one reads. -/
theorem readByteWholeFrame : Obligations.ReadByteWholeFrame := by
  rintro s addr rest v hlaunch hst hrx rfl
  obtain ⟨hrun, -, hidle, -⟩ := hlaunch
  have hcollects : Collects s.cfg [.readByte .opcode, .readByte (.addrHi (addrHighByte addr))] s.session
      { s.session with instr := opReadByte, addr := addrFromHigh (addrHighByte addr), st := .waitAddrLow } := by
    simp [Collects, Session.after, Session.context, Context.expects, Instr.wf, operates, statusReply, hst]
  refine ⟨(runSteps_frame hcollects hrun (i := .readByte (.addrLo (addrLowByte addr))) rfl rfl hrx
    (exec_readByte_addrLo _ _)).trans ?_, fun henv hbusy => sampleAt_determined s henv hbusy 0 _⟩
  rw [readDataAction_idle (by exact hidle)]
  simp [enter, takeAddrLow, State.sampleAt, State.determined, State.drawsAfter, State.cell, opReadByte, hst]

/-! ### WRITE_STREAM -/

/-- S after the data ds of a stream: what fits is in the buffer, and what does not sets S.ovf (R133). -/
def Session.filled (cfg : Config) (ds : List Byte) (S : Session) : Session :=
  { S with
    buf := (S.buf ++ ds).take cfg.pageCap
    ovf := S.ovf || decide (cfg.pageCap < S.len + ds.length) }

theorem filled_nil (h : S.len ≤ cfg.pageCap) : S.filled cfg [] = S := by
  simp [Session.filled, List.take_of_length_le h, Nat.not_lt.mpr h]

/-- The first data byte is appended and the others fill what room is left. -/
theorem filled_cons (h : S.len ≤ cfg.pageCap) (d : Byte) (ds : List Byte) :
    S.filled cfg (d :: ds) = (S.appended cfg d).filled cfg ds := by
  unfold Session.appended
  split_ifs with hroom
  · have hlen : S.buf.length + (ds.length + 1) = S.buf.length + 1 + ds.length := by omega
    simp [Session.filled, Session.len, hlen]
  · have hfull : cfg.pageCap = S.buf.length := by simp only [Session.len] at h hroom; omega
    simp [Session.filled, Session.len, hfull]

@[simp] theorem filled_st (ds : List Byte) : (S.filled cfg ds).st = S.st := rfl
@[simp] theorem filled_instr (ds : List Byte) : (S.filled cfg ds).instr = S.instr := rfl
@[simp] theorem filled_cancelSeen (ds : List Byte) : (S.filled cfg ds).cancelSeen = S.cancelSeen := rfl

/-- A stream's data is collected into the buffer. -/
theorem collects_stream (ds : List Byte) (hst : S.st = .waitData) (hinstr : S.instr = opWriteStream)
    (hseen : S.cancelSeen = false) (hlen : S.len ≤ cfg.pageCap) :
    Collects cfg (ds.flatMap streamDataInstrs) S (S.filled cfg ds) := by
  induction ds generalizing S with
  | nil => exact (filled_nil hlen).symm
  | cons d ds ih =>
    have hrest := ih (S := S.appended cfg d) (by simpa using hst) (by simpa using hinstr) (by simpa using hseen)
      (appended_len d hlen)
    rw [← filled_cons hlen] at hrest
    refine Collects.append ?_ hrest
    by_cases hd : d = opCancel
    · have hcleared : { S with st := .waitData, instr := opWriteStream, cancelSeen := false } = S := by
        cases S
        simp_all
      simp [Collects, streamDataInstrs, Session.after, Session.context, Context.expects, Instr.wf, operates,
        statusReply, hst, hinstr, hseen, hd, hcleared]
    · simp [Collects, streamDataInstrs, Session.after, Session.context, Context.expects, Instr.wf, operates,
        statusReply, hst, hinstr, hseen, hd]

/-- The instructions of a stream's frame before its last one. -/
def streamHead (addr : Addr) (ds : List Byte) : List Instr :=
  [.writeStream .opcode, .writeStream (.addrHi (addrHighByte addr)), .writeStream (.addrLo (addrLowByte addr))] ++
    ds.flatMap streamDataInstrs ++ [.writeStream .mark]

theorem instrs_writeStream (addr : Addr) (ds : List Byte) (x : Byte) :
    (Frame.writeStream addr ds x).instrs = streamHead addr ds ++ [.writeStream (.terminator x)] := by
  simp [Frame.instrs, streamHead]

/-- S of a stream whose mark was taken, all its data before it. -/
def Session.marked (cfg : Config) (addr : Addr) (ds : List Byte) (S : Session) : Session :=
  { Session.filled cfg ds { S with instr := opWriteStream, addr := addr, st := .waitData } with cancelSeen := true }

theorem collects_streamHead (addr : Addr) (ds : List Byte) (hst : S.st = .waitInstruction)
    (hseen : S.cancelSeen = false) (hlen : S.len ≤ cfg.pageCap) :
    Collects cfg (streamHead addr ds) S (S.marked cfg addr ds) := by
  have hopen : Collects cfg [.writeStream .opcode, .writeStream (.addrHi (addrHighByte addr)),
      .writeStream (.addrLo (addrLowByte addr))] S
      { S with instr := opWriteStream, addr := addr, st := .waitData } := by
    simp [Collects, Session.after, Session.context, Context.expects, Instr.wf, operates, statusReply, hst]
  refine (hopen.append (collects_stream ds rfl rfl hseen hlen)).append ?_
  simp [Collects, Session.after, Session.context, Context.expects, Instr.wf, operates, statusReply, hseen,
    Session.marked]

/-- Settles O25: opcode, address, data and mark are collected, and the disambiguator flushes what fitted. -/
theorem writeStreamWholeFrame : Obligations.WriteStreamWholeFrame := by
  rintro s addr ds _ x _ rest hlaunch hst hx hrx rfl rfl
  obtain ⟨hrun, ⟨-, -, hbits, -⟩, hidle, hlen, -⟩ := hlaunch
  obtain ⟨hbuf, hseen, hovf⟩ := hbits (by simp [hst])
  have hcollects := collects_streamHead addr ds hst hseen hlen
  have hflush := streamTerminatorResult
    { s with session := s.session.marked s.cfg addr ds, rx := rest } x hidle
  rw [Frame.bytes, instrs_writeStream] at hrx ⊢
  rw [List.length_map]
  refine (runSteps_frame hcollects hrun (by simpa [Instr.wf, opCancel] using hx) rfl hrx hflush).trans ?_
  by_cases hle : ds.length ≤ s.cfg.pageCap <;>
    simp [Session.marked, Session.filled, Session.len, opWriteStream, hst, hbuf, hseen, hovf, hle]

/-! ### READ_STREAM -/

/-- The starts that are not retained leave S waiting for a start. -/
theorem collects_skipped {start : Addr} (skipped : Nat) (hwf : RangeWf cfg.sentinelAlias skipped start)
    (hst : S.st = .waitAddrHigh) (hinstr : S.instr = opReadStream) (hpend : S.rsPending = false)
    (hstart : S.rsStart = rsSentinel) :
    ∃ a, Collects cfg (List.replicate skipped skippedInstrs).flatten S { S with addr := a } := by
  induction skipped generalizing S with
  | zero => exact ⟨S.addr, rfl⟩
  | succ skipped ih =>
    have hskip : pendingAfterStore cfg.sentinelAlias rsSentinel = false := by
      rw [sentinelAlias_of_skipped hwf]
      rfl
    have hone : Collects cfg skippedInstrs S { S with addr := rsSentinel } := by
      cases S
      simp_all [Collects, skippedInstrs, Session.after, Session.context, Context.expects, Instr.wf, operates,
        statusReply]
    obtain ⟨a, hrest⟩ := ih (S := { S with addr := rsSentinel }) (RangeWf.of_succ hwf) hst hinstr hpend hstart
    exact ⟨a, hone.append hrest⟩

/-- The instructions of a range's frame before its last one. -/
def rangeHead (skipped : Nat) (start stop : Addr) : List Instr :=
  [.readStream .opcode] ++ (List.replicate skipped skippedInstrs).flatten ++
    [.readStream (.startHi (addrHighByte start)), .readStream (.startLo (addrLowByte start)),
      .readStream (.endHi (addrHighByte stop))]

theorem instrs_readStream (skipped : Nat) (start stop : Addr) :
    (Frame.readStream skipped start stop).instrs =
      rangeHead skipped start stop ++ [.readStream (.endLo (addrLowByte stop))] := by
  simp [Frame.instrs, rangeHead, skippedInstrs]

/-- S with the start retained and the end's high byte taken. -/
def Session.ranged (start stop : Addr) (S : Session) : Session :=
  { S with
    instr := opReadStream, addr := addrFromHigh (addrHighByte stop), rsStart := start, rsPending := true
    st := .waitAddrLow }

theorem collects_rangeHead {skipped : Nat} {start : Addr} (hwf : RangeWf cfg.sentinelAlias skipped start)
    (stop : Addr) (hst : S.st = .waitInstruction) (hpend : S.rsPending = false) (hstart : S.rsStart = rsSentinel) :
    Collects cfg (rangeHead skipped start stop) S (S.ranged start stop) := by
  have hopen : Collects cfg [.readStream .opcode] S { S with instr := opReadStream, st := .waitAddrHigh } := by
    simp [Collects, Session.after, Session.context, Context.expects, Instr.wf, operates, statusReply, hst]
  obtain ⟨a, hskipped⟩ := collects_skipped (S := { S with instr := opReadStream, st := .waitAddrHigh }) skipped hwf
    rfl rfl hpend hstart
  refine (hopen.append hskipped).append ?_
  have hretained := pendingAfterStore_of_rangeWf hwf
  simp [Collects, Session.after, Session.context, Context.expects, Instr.wf, operates, statusReply, hpend, hretained,
    Session.ranged]

/-- The samples and the draws do not look at S, the phase, Rx and CONN. -/
theorem samplesFrom_withCore (s : State) (S : Session) (p : Phase) (rx : List Byte) (conn : List Bool) (k a n : Nat) :
    (s.withCore S p rx conn).samplesFrom k a n = s.samplesFrom k a n :=
  samplesFrom_congr (s := s) (t := s.withCore S p rx conn) rfl (fun _ => rfl) a n rfl

theorem drawsAfter_withCore (s : State) (S : Session) (p : Phase) (rx : List Byte) (conn : List Bool) (n : Nat) :
    (s.withCore S p rx conn).drawsAfter n = s.drawsAfter n := rfl

/-- Settles O27: opcode, starts and the end's high byte are collected, and its low byte reads the range. -/
theorem readStreamWholeFrame : Obligations.ReadStreamWholeFrame := by
  rintro s skipped start stop rest _ _ hlaunch hst hwf hrx rfl rfl
  obtain ⟨hrun, ⟨-, -, -, hpend, -, hheld⟩, hidle, -⟩ := hlaunch
  have hpend := hpend (by simp [hst])
  have hstart := hheld hpend
  refine ⟨?_, fun henv hbusy => samplesFrom_determined s henv hbusy 0 _ _⟩
  have hcollects := collects_rangeHead ((wf_readStream_iff _ _ _ _).mp hwf) stop hst hpend hstart
  rw [Frame.bytes, instrs_readStream] at hrx ⊢
  rw [List.length_map]
  have hassembled := (addrWithLow_of_bytes stop).symm
  by_cases hle : start ≤ stop
  · have hrange := readStreamEndResult (s.withCore (s.session.ranged start stop) s.phase rest s.conn)
      (addrLowByte stop) stop _ hidle hassembled hle rfl
    rw [samplesFrom_withCore, drawsAfter_withCore] at hrange
    refine (runSteps_frame hcollects hrun rfl rfl hrx hrange).trans ?_
    simp [State.withCore, Session.ranged, hle, opReadStream, rsSentinel, hst, hstart, hpend]
  · have hlt : stop < start := by simpa using hle
    have hrange := readStreamEmptyRange (s.withCore (s.session.ranged start stop) s.phase rest s.conn)
      (addrLowByte stop) stop hassembled hlt
    refine (runSteps_frame hcollects hrun rfl rfl hrx hrange).trans ?_
    simp [State.withCore, Session.ranged, State.drawsAfter, State.samplesFrom, hle, opReadStream, rsSentinel, hst,
      hstart, hpend]

/-! ### The commands without operands -/

/-- Settles O28: by induction on the bytes, each a step of R127 that answers a status. -/
theorem statusCommandsAreIdempotent : Obligations.StatusCommandsAreIdempotent := by
  intro s bs rest hrun hst hrx hbytes
  induction bs generalizing s with
  | nil =>
    obtain rfl : s.rx = rest := hrx
    simp
  | cons b bs ih =>
    have hb := hbytes b (by simp)
    have hstep : step s = .next
        { s with rx := bs ++ rest, tx := s.tx ++ [statusOf b], events := s.events ++ [.tx (statusOf b)] } := by
      rw [waitInstructionRule s b (bs ++ rest) hrun hrx hst]
      simp only [List.mem_cons, List.not_mem_nil, or_false] at hb
      rw [if_neg hb, statusOf]
      split_ifs <;> rfl
    have hrest := ih
      { s with rx := bs ++ rest, tx := s.tx ++ [statusOf b], events := s.events ++ [.tx (statusOf b)] } hrun hst rfl
      (fun c hc => hbytes c (by simp [hc]))
    rw [List.length_cons, runSteps_succ s _ hstep, hrest]
    simp

end Sys2Proof.Machine
end

section
/-! PROOFS. The latency of the writes and of the reads (70_reset_and_hazards.md R207). -/

namespace Sys2Proof.Machine

variable {s t : State}

theorem stepEvents_of_append {es : List Event} (h : t.events = s.events ++ es) : stepEvents s t = es := by
  rw [stepEvents, h, List.drop_left]

theorem minNanosOf_append (es fs : List Event) : minNanosOf (es ++ fs) = minNanosOf es + minNanosOf fs := by
  simp [minNanosOf]

theorem minNanosOf_cons (e : Event) (es : List Event) : minNanosOf (e :: es) = e.minNanos + minNanosOf es := by
  simp [minNanosOf]

/-! ### The writes -/

/-- One programByte takes its pulse and its hold (R113). -/
theorem minNanosOf_programTrace (d : Byte) (a : Addr) :
    minNanosOf (programTrace d a) = DelayKind.wp.minNanos + DelayKind.dh.minNanos := by
  simp [minNanosOf, programTrace, Event.minNanos]

theorem minNanosOf_programsTrace (a : Addr) (i : Nat) (ds : List Byte) :
    minNanosOf (programsTrace a i ds) = ds.length * (DelayKind.wp.minNanos + DelayKind.dh.minNanos) := by
  induction ds generalizing i with
  | nil => rfl
  | cons d ds ih =>
    rw [programsTrace, minNanosOf_append, minNanosOf_programTrace, ih, List.length_cons]
    ring

/-- Settles O55: the status ends the events of each write, and the delays before it are summed. -/
theorem writeLatency : Obligations.WriteLatency := by
  intro s b hidle
  have hwait : minNanosOf [.delay .wc] = DelayKind.wc.minNanos := rfl
  constructor
  · refine ⟨_, programTrace b s.session.addr ++ [.delay .wc], writeByteDataResult s b hidle,
      stepEvents_of_append rfl, ?_⟩
    rw [minNanosOf_append, minNanosOf_programTrace, hwait]
  · refine ⟨_, programsTrace s.session.addr 0 s.session.buf ++ [.delay .wc],
      if s.session.ovf then 0x15#8 else 0x06#8, streamTerminatorResult s b hidle,
      stepEvents_of_append (by simp only [List.append_assoc, List.cons_append, List.nil_append]), ?_⟩
    rw [minNanosOf_append, minNanosOf_programsTrace, hwait]

/-! ### The reads -/

/-- With a credit of c nanoseconds every response of es has ACC of its own before it: a delay adds to the credit, a
response spends ACC of it. -/
def Paced : Nat → List Event → Prop
  | _, [] => True
  | c, e :: es => (txBytes [e]).length * DelayKind.acc.minNanos ≤ c ∧
      Paced (c - (txBytes [e]).length * DelayKind.acc.minNanos + e.minNanos) es

/-- Before a response of a paced list the delays have paid for it and for all the responses before it. -/
theorem Paced.response {c : Nat} {before after : List Event} {v : Byte} (h : Paced c (before ++ .tx v :: after)) :
    ((txBytes before).length + 1) * DelayKind.acc.minNanos ≤ c + minNanosOf before := by
  induction before generalizing c with
  | nil =>
    obtain ⟨hpaid, -⟩ := h
    simpa [txBytes, minNanosOf] using hpaid
  | cons e es ih =>
    obtain ⟨hpaid, hrest⟩ := h
    have hbefore := ih hrest
    have hsplit : (txBytes (e :: es)).length = (txBytes [e]).length + (txBytes es).length := by
      rw [← List.length_append, ← txBytes_append, List.singleton_append]
    rw [minNanosOf_cons, hsplit]
    rw [add_mul] at hbefore ⊢
    rw [add_mul]
    omega

/-- Each pass of the range's loop pays for its own response (R118). -/
theorem paced_rangeLoopTrace {c : Nat} {after : List Event} (h : Paced c after) (start : Addr) (a : Nat)
    (vs : List Byte) : Paced c (rangeLoopTrace start a vs ++ after) := by
  induction vs generalizing a with
  | nil => exact h
  | cons v vs ih =>
    have hrest := ih (a + 1)
    by_cases hfirst : a = start.toNat <;>
      simpa [rangeLoopTrace, hfirst, Paced, txBytes, Event.minNanos] using hrest

theorem paced_rangeTrace (start : Addr) (vs : List Byte) : Paced 0 (rangeTrace start vs) := by
  have hend : Paced 0 [.oe false, .setDir .output] := by simp [Paced, txBytes]
  have hloop := paced_rangeLoopTrace hend start start.toNat vs
  simpa [rangeTrace, Paced, txBytes, Event.minNanos] using hloop

theorem paced_readTrace (a : Addr) (v : Byte) : Paced 0 (readTrace a v ++ [.tx v]) := by
  simp [readTrace, Paced, txBytes, Event.minNanos]

/-- The events of both reads' last steps are paced, from the idle posture. -/
theorem paced_read (b : Byte) (hidle : s.bus.Idle)
    (h : exec (.readByte (.addrLo b)) s = .next t ∨ exec (.readStream (.endLo b)) s = .next t) :
    Paced 0 (stepEvents s t) := by
  rcases h with h | h
  · rw [exec_readByte_addrLo, readDataAction_idle (by exact hidle)] at h
    cases h
    rw [stepEvents_of_append (List.append_assoc ..)]
    exact paced_readTrace _ _
  · by_cases hle : s.session.rsStart ≤ addrWithLow s.session.addr b
    · rw [readStreamEndResult s b _ _ hidle rfl hle rfl] at h
      cases h
      rw [stepEvents_of_append rfl]
      exact paced_rangeTrace _ _
    · rw [readStreamEmptyRange s b _ rfl (by simpa [addrWithLow] using hle)] at h
      cases h
      simp [stepEvents, Paced]

/-- Settles O56: the events are paced from no credit. -/
theorem readLatency : Obligations.ReadLatency := by
  intro s t b hidle h before after v hevents
  have hpaced := paced_read b hidle h
  rw [hevents, List.append_assoc, List.singleton_append] at hpaced
  simpa using hpaced.response

end Sys2Proof.Machine
end

section
/-! PROOFS. Where a flush's bytes land, and what a reset within it leaves (42_protocol.md R134, 20_memory.md R68,
70_reset_and_hazards.md R190). -/

namespace Sys2Proof.Machine

variable {s t u : State}

/-! ### The cells after the flush -/

/-- Wire addresses less than 32768 apart are different cells (R51, R68). -/
theorem busAddr_add_ne (addr : Addr) {p q : Nat} (hlt : p < q) (hnear : q < p + 32768) :
    busAddr (addr + BitVec.ofNat 16 p) ≠ busAddr (addr + BitVec.ofNat 16 q) := by
  intro h
  have htoNat := congrArg BitVec.toNat h
  simp only [busAddr_toNat, BitVec.toNat_add, BitVec.toNat_ofNat] at htoNat
  omega

/-- Writes elsewhere leave a cell. -/
theorem read_writeCells_of_ne (addr : Addr) (x : BusAddr) (ds : List Byte) (i : Nat) (m : Memory) (hwf : m.wf)
    (hx : ∀ j, i ≤ j → j < i + ds.length → x ≠ busAddr (addr + BitVec.ofNat 16 j)) :
    (writeCells addr i ds m).read x.toNat = m.read x.toNat := by
  induction ds generalizing i m with
  | nil => rfl
  | cons d ds ih =>
    rw [List.length_cons] at hx
    have hne : x.toNat ≠ (busAddr (addr + BitVec.ofNat 16 i)).toNat := fun h =>
      hx i le_rfl (by omega) (BitVec.eq_of_toNat_eq h)
    rw [writeCells, ih _ _ (write_wf _ _ _ hwf (BitVec.isLt _)) (fun j h1 h2 => hx j (by omega) (by omega)),
      read_write _ _ _ _ hwf.1, if_neg hne]

/-- Up to 32768 bytes no later byte overwrites an earlier one. -/
theorem read_writeCells (addr : Addr) (ds : List Byte) (i : Nat) (m : Memory) (hwf : m.wf) (hlen : ds.length ≤ 32768)
    (j : Nat) (hj : j < ds.length) :
    (writeCells addr i ds m).read (busAddr (addr + BitVec.ofNat 16 (i + j))).toNat = ds[j] := by
  induction ds generalizing i m j with
  | nil => exact absurd hj (Nat.not_lt_zero j)
  | cons d ds ih =>
    rw [List.length_cons] at hlen hj
    have hwf' := write_wf m (busAddr (addr + BitVec.ofNat 16 i)).toNat d hwf (BitVec.isLt _)
    rw [writeCells]
    cases j with
    | zero =>
      rw [read_writeCells_of_ne addr _ ds (i + 1) _ hwf'
        (fun k h1 h2 => busAddr_add_ne addr (by omega) (by omega)), read_write _ _ _ _ hwf.1]
      exact if_pos rfl
    | succ j =>
      have hrest := ih (i + 1) _ hwf' (by omega) j (by omega)
      rwa [show i + 1 + j = i + (j + 1) by omega] at hrest

/-! ### A reset within the flush -/

/-- A bus address is its own bus address (R51). -/
@[simp] theorem busAddr_setWidth (x : BusAddr) : busAddr (x.setWidth 16) = x := by
  unfold busAddr
  bv_omega

/-- A reset within a programByte: from the fourth event on the byte is in its cell, since the reset ends the pulse it
finds (log 23). -/
theorem deviceReset_within_programByte (hidle : u.bus.Idle) (henv : u.chip.env = .reference) (d : Byte) (a : Addr)
    (k : Nat) (hk : k < 7) (held : List Byte) :
    ((performAll ((programTrace d a).take k) u).deviceReset held).chip.cells =
      if k < 4 then u.chip.cells else u.chip.cells.write (busAddr a).toNat d := by
  obtain ⟨-, hwe, hoe⟩ := hidle
  interval_cases k <;>
    simp [programTrace, perform, setWriteEnable_chip, chipLatch_chip, henv, hwe, hoe]

/-- After the loop the wait and the status leave the cells. -/
theorem deviceReset_within_wait (hidle : u.bus.Idle) (r : Byte) (k : Nat) (held : List Byte) :
    ((performAll (([.delay .wc, .tx r] : List Event).take k) u).deviceReset held).chip.cells = u.chip.cells := by
  obtain ⟨-, hwe, -⟩ := hidle
  rcases k with _ | _ | k <;> simp [perform, hwe, delay_wc]

theorem length_programTrace (d : Byte) (a : Addr) : (programTrace d a).length = 7 := rfl

/-- Doing programByte's events again is programByte. -/
theorem performAll_programTrace (d : Byte) (a : Addr) (s : State) :
    performAll (programTrace d a) s = programByte d a s := by
  simp only [programTrace, performAll_cons, performAll_nil, perform_setA]
  rfl

/-- A reset within the flush: seven events a byte, the fourth beginning its pulse. -/
theorem deviceReset_within_flush (addr : Addr) (r : Byte) (held : List Byte) (ds : List Byte) (i k : Nat) {u : State}
    (hidle : u.bus.Idle) (henv : u.chip.env = .reference) :
    ((performAll ((programsTrace addr i ds ++ ([.delay .wc, .tx r] : List Event)).take k) u).deviceReset
        held).chip.cells =
      writeCells addr i (ds.take ((k + 3) / 7)) u.chip.cells := by
  induction ds generalizing i k u with
  | nil => simpa [programsTrace, writeCells] using deviceReset_within_wait hidle r k held
  | cons d ds ih =>
    rw [programsTrace, List.append_assoc, List.take_append, length_programTrace, performAll_append]
    by_cases hk : k < 7
    · rw [show k - 7 = 0 by omega, List.take_zero, performAll_nil,
        deviceReset_within_programByte hidle henv d _ k hk]
      by_cases hpulse : k < 4
      · rw [if_pos hpulse, show (k + 3) / 7 = 0 by omega]
        rfl
      · rw [if_neg hpulse, show (k + 3) / 7 = 1 by omega]
        rfl
    · have hcells : (programByte d (addr + BitVec.ofNat 16 i) u).chip.cells =
          u.chip.cells.write (busAddr (addr + BitVec.ofNat 16 i)).toNat d := by
        obtain ⟨-, -, hoe⟩ := hidle
        rw [programByte_chip, if_pos henv, if_pos hoe]
      have hidle' : (programByte d (addr + BitVec.ofNat 16 i) u).bus.Idle := by
        rw [programByte_idle u hidle]
        exact busAfterProgram_idle _ _
      have hwhole : (programTrace d (addr + BitVec.ofNat 16 i)).take k = programTrace d (addr + BitVec.ofNat 16 i) :=
        List.take_of_length_le (by rw [length_programTrace]; omega)
      rw [hwhole, performAll_programTrace,
        ih (i + 1) (k - 7) hidle' ((programByte_env _ _ u).trans henv), hcells,
        show (k + 3) / 7 = (k - 7 + 3) / 7 + 1 by omega]
      rfl

/-- Settles O49: byte i is written at its own cell and by no later byte; a reset within the flush is one after a first
part of its events. -/
theorem flushedBytesLand : Obligations.FlushedBytesLand := by
  refine ⟨fun s t x hidle henv hwf hlen h i hi => ?whole,
    fun s x rest held k hrun hst hinstr hseen hx hrx hidle henv => ?cut⟩
  case whole =>
    rw [streamTerminatorResult s x hidle] at h
    cases h
    have hcell := read_writeCells s.session.addr s.session.buf 0 s.chip.cells hwf hlen i hi
    rw [Nat.zero_add] at hcell
    simpa [State.cell, Chip.cellsAfter, henv] using hcell
  case cut =>
    have hstep : step s = exec (.writeStream (.terminator x)) { s with rx := rest } := by
      rw [step_waitData_writeStream hrun hrx hst hinstr, hseen, streamRole_seen_terminator hx]
    rw [streamTerminatorResult { s with rx := rest } x hidle] at hstep
    rw [State.resetDuring, partOfStep_next s hstep, stepEvents_of_append (List.append_assoc ..)]
    exact deviceReset_within_flush s.session.addr _ held s.session.buf 0 k (u := { s with rx := rest }) hidle henv

end Sys2Proof.Machine
end
